-- ==== Sys2Proof/Word.lean ====
section
/-! DEFINITION. The widths of 00_scope.md rule R7 as types. -/

namespace Sys2Proof

/-- A byte of packed memory, the smallest unit the host addresses (20_memory.md R67). -/
abbrev Byte := BitVec 8

/-- A signed 16-bit two's-complement sample, kernel weight or kernel gain (R7). -/
abbrev Sample := BitVec 16

/-- A 32-bit register, command word, operand or packed pixel (R7, R40). -/
abbrev Word := BitVec 32

/-- A slot field, an unsigned 4-bit integer (30_encoding.md R85). -/
abbrev Slot := Fin 16

end Sys2Proof
end

