-- ==== Sys2Proof/Config.lean ====
section
/-! DEFINITION. What an implementation fixes (00_scope.md R6, 20_memory.md R59) and the one free value of the
spec (10_state.md R39). -/

namespace Sys2Proof

/-- The implementation parameters. State carries them and no step changes them, so a statement about every
state is a statement about every implementation (log 2). -/
structure Params where
  /-- `NBUF`, the number of buffer slots (R6). -/
  nbuf : Nat
  /-- `NKER`, the number of kernel slots (R6). -/
  nker : Nat
  /-- `SLOT_WORDS`, the capacity of one buffer slot and of packed memory (R6). -/
  slotWords : Nat
  /-- `KMAX_TAPS`, the capacity of one kernel slot (R6). -/
  kmaxTaps : Nat
  /-- `APERTURE_BASE`, the aperture's base address on the host's bus (R59, D22: open; log 3). -/
  apertureBase : Nat
  deriving DecidableEq, Repr

/-- The legal ranges of R6. `APERTURE_BASE` has none. -/
def Params.legal (p : Params) : Bool :=
  decide (1 ≤ p.nbuf ∧ p.nbuf ≤ 16 ∧ 1 ≤ p.nker ∧ p.nker ≤ 16 ∧ 1 ≤ p.slotWords ∧ p.slotWords ≤ 2 ^ 18 ∧
    1 ≤ p.kmaxTaps ∧ p.kmaxTaps ≤ min p.slotWords (2 ^ 16))

/-- The defaults of R6. DESIGN CHOICE, log 3: the aperture base, which the spec leaves open, is 0 here. -/
def Params.default : Params :=
  { nbuf := 8, nker := 4, slotWords := 65536, kmaxTaps := 256, apertureBase := 0 }

/-- FREE VALUE, log 4: what a read that covers an undefined byte of packed memory finds there (10_state.md R39,
93 I5 "a free draw"). The first argument is the number of the draw, so that no two reads need agree; the second is
the byte's address in packed memory. It has no body: nothing can be proved of its values. -/
opaque Config.freeByte : Nat → Nat → Byte

end Sys2Proof
end

