-- ==== Sys2Proof/Syntax.lean ====
section
/-! DEFINITION. The commands of 30_encoding.md R90, one constructor per row of opcode_table.json. -/

namespace Sys2Proof

/-- A command with its slot fields and mode bits (R85, R95). Scalar operands are not part of it: they come from
ARG0 to ARG2 (R91). -/
inductive Instr where
  /-- NOP (R176). -/
  | nop
  /-- CREATE b⟨d⟩ (R100). -/
  | create (d : Slot)
  /-- RELEASE b⟨d⟩ (R101). -/
  | release (d : Slot)
  /-- GET b⟨src⟩ (R102). -/
  | get (src : Slot)
  /-- SET b⟨d⟩ (R103). -/
  | set (d : Slot)
  /-- FILL b⟨d⟩ (R104). -/
  | fill (d : Slot)
  /-- KLOAD k⟨k⟩, b⟨src⟩ (R122). -/
  | kload (k : Slot) (src : Slot)
  /-- CONV b⟨d⟩, b⟨src⟩, k⟨k⟩ with the mode bits D, S and V (R125, R86 to R88). -/
  | conv (d : Slot) (src : Slot) (k : Slot) (degain : Bool) (saturate : Bool) (corrected : Bool)
  /-- DIFF b⟨d⟩, b⟨a⟩, b⟨b⟩ with the variant bit V (R145). -/
  | diff (d : Slot) (a : Slot) (b : Slot) (corrected : Bool)
  /-- SCALEDOWN.V b⟨d⟩, b⟨src⟩; only V = 1 has an encoding (R153, R93). -/
  | scaledown (d : Slot) (src : Slot)
  /-- PACK b⟨r⟩, b⟨g⟩, b⟨b⟩, b⟨a⟩ (R164). -/
  | pack (r : Slot) (g : Slot) (b : Slot) (a : Slot)
  /-- UNPACK b⟨r⟩, b⟨g⟩, b⟨b⟩, b⟨a⟩ (R166). -/
  | unpack (r : Slot) (g : Slot) (b : Slot) (a : Slot)
  deriving DecidableEq, Repr

end Sys2Proof
end

