-- ==== Sys2Proof/WellFormed.lean ====
section
/-! DEFINITION. The slot range check of 30_encoding.md R92. -/

namespace Sys2Proof

/-- A buffer-slot field must be less than `NBUF` (R92). -/
def Params.bufferSlotOk (p : Params) (f : Slot) : Bool := decide (f.val < p.nbuf)

/-- A kernel-slot field must be less than `NKER` (R92). -/
def Params.kernelSlotOk (p : Params) (f : Slot) : Bool := decide (f.val < p.nker)

/-- Every slot field the command uses is in range (R92: the kernel fields are FA of KLOAD and FC of CONV). -/
def Instr.wellFormed (p : Params) : Instr → Bool
  | .nop => true
  | .create d => p.bufferSlotOk d
  | .release d => p.bufferSlotOk d
  | .get src => p.bufferSlotOk src
  | .set d => p.bufferSlotOk d
  | .fill d => p.bufferSlotOk d
  | .kload k src => p.kernelSlotOk k && p.bufferSlotOk src
  | .conv d src k _ _ _ => p.bufferSlotOk d && p.bufferSlotOk src && p.kernelSlotOk k
  | .diff d a b _ => p.bufferSlotOk d && p.bufferSlotOk a && p.bufferSlotOk b
  | .scaledown d src => p.bufferSlotOk d && p.bufferSlotOk src
  | .pack r g b a => p.bufferSlotOk r && p.bufferSlotOk g && p.bufferSlotOk b && p.bufferSlotOk a
  | .unpack r g b a => p.bufferSlotOk r && p.bufferSlotOk g && p.bufferSlotOk b && p.bufferSlotOk a

end Sys2Proof
end

