-- ==== Sys2Proof/Decode.lean ====
section
/-! DEFINITION. The decoder of 30_encoding.md R84 to R95, total on every 32-bit word and rejecting by name, and
after it the encoder from the same table. -/

namespace Sys2Proof

/-- Why a word is illegal: the five kinds R94 lists. Each of them makes the command complete with ERR = 5. -/
inductive DecodeError where
  /-- An opcode from 0x0C to 0xFF. -/
  | unknownOpcode
  /-- A set bit in 31:27. -/
  | reservedBits
  /-- SCALEDOWN with V = 0 (R93). -/
  | literalDownscale
  /-- A non-zero field that the row fixes to 0. -/
  | fixedField
  /-- A slot field out of range (R92). -/
  | slotOutOfRange
  deriving DecidableEq, Repr

/-- OP, bits 7:0 (R84). -/
def fieldOp (w : Word) : BitVec 8 := w.extractLsb' 0 8

/-- The 4-bit slot field whose lowest bit is `lo` (R84, R85). -/
def slotField (w : Word) (lo : Nat) : Slot := ⟨(w.extractLsb' lo 4).toNat, (w.extractLsb' lo 4).isLt⟩

/-- FA, bits 11:8 (R84). -/
def fieldA (w : Word) : Slot := slotField w 8

/-- FB, bits 15:12 (R84). -/
def fieldB (w : Word) : Slot := slotField w 12

/-- FC, bits 19:16 (R84). -/
def fieldC (w : Word) : Slot := slotField w 16

/-- FD, bits 23:20 (R84). -/
def fieldD (w : Word) : Slot := slotField w 20

/-- D, bit 24: degain (R86). -/
def bitDegain (w : Word) : Bool := w.getLsbD 24

/-- S, bit 25: saturate (R87). -/
def bitSaturate (w : Word) : Bool := w.getLsbD 25

/-- V, bit 26: variant (R88). -/
def bitVariant (w : Word) : Bool := w.getLsbD 26

/-- The name of the reason for which a word that matches no row is illegal (R94). -/
def rejectReason (w : Word) : DecodeError :=
  if 0x0C ≤ (fieldOp w).toNat then .unknownOpcode
  else if w.extractLsb' 27 5 ≠ 0 then .reservedBits
  else if fieldOp w = 0x09 ∧ bitVariant w = false then .literalDownscale
  else .fixedField

/-- "A word decodes to the row whose `match` it equals after AND with `mask`" (R90). -/
def decodeRow (w : Word) : Except DecodeError Instr :=
  if w &&& 0xFFFFFFFF#32 = 0x00000000#32 then .ok .nop
  else if w &&& 0xFFFFF0FF#32 = 0x00000001#32 then .ok (.create (fieldA w))
  else if w &&& 0xFFFFF0FF#32 = 0x00000002#32 then .ok (.release (fieldA w))
  else if w &&& 0xFFFFF0FF#32 = 0x00000003#32 then .ok (.get (fieldA w))
  else if w &&& 0xFFFFF0FF#32 = 0x00000004#32 then .ok (.set (fieldA w))
  else if w &&& 0xFFFFF0FF#32 = 0x00000005#32 then .ok (.fill (fieldA w))
  else if w &&& 0xFFFF00FF#32 = 0x00000006#32 then .ok (.kload (fieldA w) (fieldB w))
  else if w &&& 0xF8F000FF#32 = 0x00000007#32 then
    .ok (.conv (fieldA w) (fieldB w) (fieldC w) (bitDegain w) (bitSaturate w) (bitVariant w))
  else if w &&& 0xFBF000FF#32 = 0x00000008#32 then
    .ok (.diff (fieldA w) (fieldB w) (fieldC w) (bitVariant w))
  else if w &&& 0xFFFF00FF#32 = 0x04000009#32 then .ok (.scaledown (fieldA w) (fieldB w))
  else if w &&& 0xFF0000FF#32 = 0x0000000A#32 then
    .ok (.pack (fieldA w) (fieldB w) (fieldC w) (fieldD w))
  else if w &&& 0xFF0000FF#32 = 0x0000000B#32 then
    .ok (.unpack (fieldA w) (fieldB w) (fieldC w) (fieldD w))
  else .error (rejectReason w)

/-- Decoding: the row (R90), then the range check of its slot fields (R92). -/
def decode (p : Params) (w : Word) : Except DecodeError Instr :=
  match decodeRow w with
  | .error e => .error e
  | .ok i => if i.wellFormed p then .ok i else .error .slotOutOfRange

/-- The instruction the decoder reads from the word `w` of a row of `nbits` bits, under the default parameters of R6. -/
def decodeTableWord (nbits w : Nat) : Option Instr :=
  match decode Params.default (BitVec.ofNat 32 (w % 2 ^ nbits)) with
  | .ok i => some i
  | .error _ => none

/-- A slot field placed with its lowest bit at `lo` (R84). -/
def slotBits (f : Slot) (lo : Nat) : Word := BitVec.ofNat 32 f.val <<< lo

/-- A mode bit placed at bit `n` (R84). -/
def modeBit (b : Bool) (n : Nat) : Word := if b then 1#32 <<< n else 0#32

/-- The command word, in the form each command's rule gives under "Encoding" (R100 to R166). -/
def encode : Instr → Word
  | .nop => 0x00000000#32
  | .create d => 0x00000001#32 ||| slotBits d 8
  | .release d => 0x00000002#32 ||| slotBits d 8
  | .get src => 0x00000003#32 ||| slotBits src 8
  | .set d => 0x00000004#32 ||| slotBits d 8
  | .fill d => 0x00000005#32 ||| slotBits d 8
  | .kload k src => 0x00000006#32 ||| slotBits k 8 ||| slotBits src 12
  | .conv d src k degain saturate corrected =>
    0x00000007#32 ||| slotBits d 8 ||| slotBits src 12 ||| slotBits k 16 ||| modeBit degain 24 |||
      modeBit saturate 25 ||| modeBit corrected 26
  | .diff d a b corrected =>
    0x00000008#32 ||| slotBits d 8 ||| slotBits a 12 ||| slotBits b 16 ||| modeBit corrected 26
  | .scaledown d src => 0x04000009#32 ||| slotBits d 8 ||| slotBits src 12
  | .pack r g b a => 0x0000000A#32 ||| slotBits r 8 ||| slotBits g 12 ||| slotBits b 16 ||| slotBits a 20
  | .unpack r g b a => 0x0000000B#32 ||| slotBits r 8 ||| slotBits g 12 ||| slotBits b 16 ||| slotBits a 20

end Sys2Proof
end

