-- ==== Sys2Proof/Machine/Arith.lean ====
section
/-! DEFINITION. The integer arithmetic of 00_scope.md R8 to R12: exact, narrowed only by `wrap16` and `sat16`. -/

namespace Sys2Proof.Machine

/-- `tdiv(a, b) = sign(a) * (|a| div b)`, truncating toward zero (R11). -/
def tdiv (a b : Int) : Int := a.sign * ((a.natAbs / b.toNat : Nat) : Int)

/-- `clamp(v, lo, hi)` (R12). -/
def clamp (v lo hi : Int) : Int := if v < lo then lo else if v > hi then hi else v

/-- `wrap16(v)`: the 16-bit pattern congruent to `v` modulo 65536 (R12). -/
def wrap16 (v : Int) : Sample := BitVec.ofInt 16 v

/-- `sat16(v) = clamp(v, -32768, 32767)`, as a 16-bit pattern (R12). -/
def sat16 (v : Int) : Sample := BitVec.ofInt 16 (clamp v (-32768) 32767)

/-- The sum of `f 0` to `f (n-1)`, exact (R8). -/
def sumRange (n : Nat) (f : Nat → Int) : Int := ((List.range n).map f).sum

end Sys2Proof.Machine
end

