-- ==== Sys2Proof/Machine/State.lean ====
section
/-! DEFINITION. The machine's state (10_state.md R30 to R52), the host's moves (20_memory.md R80), the reasons a step
can stop, and the state after reset (R52, R200). -/

namespace Sys2Proof.Machine

/-- Why the machine stops with a fault. -/
inductive Fault where
  /-- Raised by a host access whose address is not in the block's aperture (20_memory.md R59): it does not reach this
  block, so the spec gives it no effect. SAFE: the model stops where the platform goes on (log 6). -/
  | outsideAperture
  deriving DecidableEq, Repr

/-- Why a step has no meaning. -/
inductive Refusal where
  /-- Raised by exec's arm of an instruction that has no meaning yet. SAFE. No arm raises it. -/
  | notModelled (mnemonic : String)
  /-- Raised by a host access made while reset is asserted: "An access attempted then has no defined result"
  (70_reset_and_hazards.md R202, 93 I7 "refuse"). SAFE: the model stops (log 7). -/
  | accessDuringReset
  deriving DecidableEq, Repr

/-- The error codes of 60_exceptions.md R179. Codes 6 to 15 are reserved and "never reported", so they have no
constructor (log 14). -/
inductive ErrorCode where
  | ok
  | invalidDimension
  | dimensionMismatch
  | invalidArgument
  | capacityExceeded
  | illegalCommand
  deriving DecidableEq, Repr

/-- A buffer (10_state.md R30). -/
structure Buffer where
  /-- `W`. -/
  width : Nat
  /-- `H`. -/
  height : Nat
  /-- `GAIN`, a 32-bit pattern no command reads (R33). -/
  gain : Word
  /-- `S`, row-major: the sample at (x, y) is at index x + y*W. -/
  samples : List Sample
  deriving DecidableEq, Repr

/-- A kernel (10_state.md R35). -/
structure Kernel where
  /-- `W`. -/
  width : Nat
  /-- `H`. -/
  height : Nat
  /-- `GAIN`, signed 16 bits (R37). -/
  gain : Sample
  /-- `WT`, row-major. -/
  weights : List Sample
  deriving DecidableEq, Repr

/-- Packed memory as bytes: byte `4*i + j` holds bits `[8*j+7 : 8*j]` of `PM[i]` (20_memory.md R67). Addresses rise
strictly; a byte nothing has written since reset is not listed (10_state.md R39). -/
abbrev Memory := List Host.Cell

/-- The width of a host access (20_memory.md R69, R70). -/
inductive AccessSize where
  | byte
  | half
  | word
  deriving DecidableEq, Repr

/-- What a host access does. A write of fewer than four bytes carries its value in the low bits (log 16). -/
inductive AccessKind where
  | read
  | write (value : Word)
  deriving DecidableEq, Repr

/-- A host access at an address of the host's bus. -/
structure Access where
  addr : Nat
  size : AccessSize
  kind : AccessKind
  deriving DecidableEq, Repr

/-- A move of the host agent: an access, or a change of the reset input (R80, R200). -/
inductive HostMove where
  | access (a : Access)
  | assertReset
  | releaseReset
  deriving DecidableEq, Repr

/-- What an access gives back to the host. -/
inductive Reply where
  /-- A read's data, zero-extended to 32 bits (log 16). -/
  | data (value : Word)
  /-- A write's completion. -/
  | written
  /-- A bus error: no data (20_memory.md R71). -/
  | busError
  deriving DecidableEq, Repr

/-- The command in flight (10_state.md R50): what the CMD write latched (30_encoding.md R83), and the model's own
`slack`, the number of host moves that may still land before the command completes (log 1). -/
structure InFlight where
  word : Word
  arg0 : Word
  arg1 : Word
  arg2 : Word
  slack : Nat
  deriving DecidableEq, Repr

/-- The whole machine: the spec's state (R30 to R50), the parameters (R6), and the host agent. -/
structure State where
  /-- R6, R59. No step changes it. -/
  params : Params
  /-- `BUF[0]` to `BUF[NBUF-1]` (R30). -/
  bufs : List Buffer
  /-- `KER[0]` to `KER[NKER-1]` (R35). -/
  kers : List Kernel
  /-- `PM` (R38). -/
  pm : Memory
  /-- CMD (R40). -/
  cmd : Word
  /-- ARG0 (R41). -/
  arg0 : Word
  /-- ARG1 (R41). -/
  arg1 : Word
  /-- ARG2 (R41). -/
  arg2 : Word
  /-- STATUS.ERR_STICKY (R45). -/
  errSticky : Bool
  /-- STATUS.ERR (R44). -/
  err : ErrorCode
  /-- RESULT (R46). -/
  result : Word
  /-- PCOUNT (R47). -/
  pcount : Word
  /-- PK_W (R47). -/
  pkW : Word
  /-- PK_H (R47). -/
  pkH : Word
  /-- The command in flight; STATUS.BUSY is 1 exactly when there is one (R43, R50; log 11). -/
  inFlight : Option InFlight
  /-- The reset input is asserted (R200). -/
  resetAsserted : Bool
  /-- The host's moves still to be made, oldest first (log 8). -/
  hostQueue : List HostMove
  /-- What each access gave back, newest first (log 8). -/
  replies : List Reply
  /-- A bus error has ended an access of the host; never cleared (R194; log 5). -/
  hostFault : Bool
  /-- For each command still to be accepted, the slack it gets; an absent entry is 0 (log 1). -/
  latencies : List Nat
  /-- The number of the next free draw (log 4). -/
  draws : Nat
  deriving DecidableEq, Repr

/-- `0x3F800000`, the GAIN of every buffer a command makes and of every slot after reset (R33, R52). -/
def defaultGain : Word := 0x3F800000#32

/-- A buffer slot after reset (R52). -/
def Buffer.atReset : Buffer := { width := 0, height := 0, gain := defaultGain, samples := [] }

/-- A kernel slot after reset (R52). -/
def Kernel.atReset : Kernel := { width := 0, height := 0, gain := 0, weights := [] }

/-- The table of R52 for an implementation with parameters `p`. The host agent's fields, which no rule names, are empty
(DESIGN CHOICE, log 1, 4, 5, 8). -/
def State.resetWith (p : Params) : State :=
  { params := p
    bufs := List.replicate p.nbuf Buffer.atReset
    kers := List.replicate p.nker Kernel.atReset
    pm := []
    cmd := 0
    arg0 := 0
    arg1 := 0
    arg2 := 0
    errSticky := false
    err := .ok
    result := 0
    pcount := 0
    pkW := 0
    pkH := 0
    inFlight := none
    resetAsserted := false
    hostQueue := []
    replies := []
    hostFault := false
    latencies := []
    draws := 0 }

/-- The machine right after reset, with the default parameters of R6 (DESIGN CHOICE, log 2: R6 leaves them open in a
range). -/
def State.reset : State := State.resetWith Params.default

end Sys2Proof.Machine
end

