-- ==== Sys2Proof/Machine/Flags.lean ====
section
/-! DEFINITION. STATUS, the only status a command leaves (10_state.md R42 to R45, R49; 60_exceptions.md R179 to R182).
The engine has no flags, condition codes or predicates (R49). -/

namespace Sys2Proof.Machine

/-- The numeric code of an error (R179). -/
def ErrorCode.code : ErrorCode → BitVec 4
  | .ok => 0
  | .invalidDimension => 1
  | .dimensionMismatch => 2
  | .invalidArgument => 3
  | .capacityExceeded => 4
  | .illegalCommand => 5

/-- STATUS.BUSY: 1 from the acceptance of a command to its completion (R43, R50; log 11). -/
def State.busy (s : State) : Bool := s.inFlight.isSome

/-- The STATUS register as the host reads it (R42): ERR in 7:4, ERR_STICKY in bit 1, BUSY in bit 0, the rest 0. -/
def State.status (s : State) : Word :=
  (0#24 ++ s.err.code ++ 0#2 ++ BitVec.ofBool s.errSticky ++ BitVec.ofBool s.busy : BitVec (24 + 4 + 2 + 1 + 1))

/-- Completion of a command with a code: `STATUS.ERR <- code`, `STATUS.BUSY <- 0` (R181), and `ERR_STICKY <- 1` when the
code is not 0 (R182, R45). -/
def State.complete (s : State) (code : ErrorCode) : State :=
  { s with inFlight := none, err := code, errSticky := s.errSticky || decide (code ≠ .ok) }

/-- A host write of `v` to STATUS: bit 1 clears ERR_STICKY, every other bit is ignored (R42, R45, R64). -/
def State.writeStatus (s : State) (v : Word) : State :=
  { s with errSticky := s.errSticky && !v.getLsbD 1 }

end Sys2Proof.Machine
end

