-- ==== Sys2Proof/Machine/Operands.lean ====
section
/-! DEFINITION. The scalar operand forms of 30_encoding.md R83, R91 and R96. The slot operands are in Ops.lean. -/

namespace Sys2Proof.Machine

/-- The ARG0 value the command reads: the one its CMD write latched (R83, R205). With no command in flight it is the
register's current value, which is what a CMD write would latch (DEDUCED, log 9). -/
def State.operand0 (s : State) : Word :=
  match s.inFlight with
  | some c => c.arg0
  | none => s.arg0

/-- The ARG1 value the command reads (R83, R205; log 9). -/
def State.operand1 (s : State) : Word :=
  match s.inFlight with
  | some c => c.arg1
  | none => s.arg1

/-- The ARG2 value the command reads (R83, R205; log 9). -/
def State.operand2 (s : State) : Word :=
  match s.inFlight with
  | some c => c.arg2
  | none => s.arg2

/-- A dimension, coordinate or scale operand: the full value as two's complement, `sext_32(ARGn)` (R96). -/
def signedOperand (w : Word) : Int := w.toInt

/-- A value operand: `ARGn[15:0]` as a signed 16-bit sample, bits 31:16 ignored (R91, R96). -/
def valueOperand (w : Word) : Sample := w.extractLsb' 0 16

end Sys2Proof.Machine
end

