-- ==== Sys2Proof/Machine/Ops.lean ====
section
/-! DEFINITION. The named operations over buffers, kernels, packed memory and slots (00_scope.md R14 to R19), and the
life of a command: acceptance, validation, completion (30_encoding.md R83, 60_exceptions.md R179 to R186). -/

namespace Sys2Proof.Machine

/-! ## Buffers and kernels -/

/-- `NewBuf(W, H)`: `W*H` zero samples, GAIN 1.0 (R17). -/
def newBuf (width height : Nat) : Buffer :=
  { width := width, height := height, gain := defaultGain, samples := List.replicate (width * height) 0 }

/-- The sentinel -1 (R14). -/
def sentinel : Sample := -1

/-- The flat index `x + y*W`, exact (R8, R14). -/
def flatIndex (width : Nat) (x y : Int) : Int := x + y * width

/-- "0 <= idx and idx < W * H", on the flat index alone (R14, C3). -/
def inGrid (width height : Nat) (idx : Int) : Bool := decide (0 ≤ idx ∧ idx < (width : Int) * height)

/-- `Get(b, x, y)` (R14). -/
def Buffer.get (b : Buffer) (x y : Int) : Sample :=
  if inGrid b.width b.height (flatIndex b.width x y) then b.samples.getD (flatIndex b.width x y).toNat sentinel
  else sentinel

/-- `Set(b, x, y, v)` (R15). -/
def Buffer.set (b : Buffer) (x y : Int) (v : Sample) : Buffer :=
  if inGrid b.width b.height (flatIndex b.width x y) then
    { b with samples := b.samples.set (flatIndex b.width x y).toNat v }
  else b

/-- `S[i]`, for an index the command has bounded. -/
def Buffer.at (b : Buffer) (i : Nat) : Sample := b.samples.getD i 0

/-- Every sample set to `v`, for `i` in 0 .. W*H-1 (R104). -/
def Buffer.filled (b : Buffer) (v : Sample) : Buffer :=
  { b with samples := List.replicate (b.width * b.height) v }

/-- A new buffer whose sample at flat index `i` is `f i`: what a command that makes a buffer leaves (R17, R19). -/
def bufferOf (width height : Nat) (f : Nat → Sample) : Buffer :=
  { newBuf width height with samples := (List.range (width * height)).map f }

/-- `KGet(k, i, j)`, with the bounds check and sentinel of `Get` (R16). -/
def Kernel.get (k : Kernel) (i j : Int) : Sample :=
  if inGrid k.width k.height (flatIndex k.width i j) then k.weights.getD (flatIndex k.width i j).toNat sentinel
  else sentinel

/-- The exact sum of samples or weights (R8, R124). -/
def sampleSum (l : List Sample) : Int := (l.map BitVec.toInt).sum

/-! ## Packed memory -/

/-- What a byte reads as that nothing has written since reset: no value (10_state.md R39, R52; log 4). -/
def Memory.unlisted : Option Byte := none

/-- The byte at address `a`, if it is defined (10_state.md R39). -/
def Memory.read : Memory → Nat → Option Byte
  | [], _ => Memory.unlisted
  | (k, b) :: m, a => if k = a then some b else Memory.read m a

/-- The memory with the byte `v` at address `a`, addresses still rising. -/
def Memory.write : Memory → Nat → Byte → Memory
  | [], a, v => [(a, v)]
  | (k, b) :: m, a, v =>
    if a < k then (a, v) :: (k, b) :: m
    else if a = k then (a, v) :: m
    else (k, b) :: Memory.write m a v

/-- The low `n` bytes of `v` written at `a`, least significant byte first (20_memory.md R67, R70). -/
def Memory.writeLE (m : Memory) (a : Nat) : Nat → Word → Memory
  | 0, _ => m
  | n + 1, v => Memory.writeLE (m.write a (v.extractLsb' 0 8)) (a + 1) n (v >>> 8)

/-- `PM[i] <- w` (R67). -/
def Memory.writePixel (m : Memory) (i : Nat) (w : Word) : Memory := m.writeLE (4 * i) 4 w

/-- Every byte of the `n` bytes from `a` is defined (10_state.md R39). -/
def Memory.definedOn (m : Memory) (a n : Nat) : Bool := (List.range n).all fun k => (m.read (a + k)).isSome

/-- The canonical form: addresses strictly rising. No listed entry can equal `Memory.unlisted`, which is no byte. -/
abbrev Memory.wf (m : Memory) : Prop := m.Pairwise fun c d => c.1 < d.1

/-- The byte a read finds at `a`: the defined byte, or a free draw (10_state.md R39, 93 I5; log 4). -/
def State.packedByte (s : State) (a : Nat) : Byte := (s.pm.read a).getD (Config.freeByte s.draws a)

/-- The `n` bytes from `a` as one value, least significant byte first, zero-extended (20_memory.md R67, R70). -/
def State.packedLE (s : State) (a : Nat) : Nat → Word
  | 0 => 0
  | n + 1 => (s.packedByte a).setWidth 32 ||| (State.packedLE s (a + 1) n <<< 8)

/-- After a read of the `n` bytes from `a`: a read that covers an undefined byte uses up a draw (log 4). -/
def State.afterPackedRead (s : State) (a n : Nat) : State :=
  if s.pm.definedOn a n then s else { s with draws := s.draws + 1 }

/-! ## Slots -/

/-- `BUF[d]` (R13). Every slot a checked command names exists (R92; log 10). -/
def State.buf (s : State) (d : Slot) : Buffer := s.bufs.getD d.val Buffer.atReset

/-- `BUF[d] <- b`: the whole slot and no other (R13, R34). -/
def State.setBuf (s : State) (d : Slot) (b : Buffer) : State := { s with bufs := s.bufs.set d.val b }

/-- `KER[k]` (R13). -/
def State.ker (s : State) (k : Slot) : Kernel := s.kers.getD k.val Kernel.atReset

/-- `KER[k] <- v` (R13). -/
def State.setKer (s : State) (k : Slot) (v : Kernel) : State := { s with kers := s.kers.set k.val v }

/-- `RESULT <- v` (R46). -/
def State.setResult (s : State) (v : Word) : State := { s with result := v }

/-- What a successful PACK writes: packed memory, PCOUNT, PK_W and PK_H (R47, R164). -/
def State.setPacked (s : State) (m : Memory) (count width height : Nat) : State :=
  { s with pm := m, pcount := BitVec.ofNat 32 count, pkW := BitVec.ofNat 32 width, pkH := BitVec.ofNat 32 height }

/-! ## The life of a command -/

/-- Acceptance of the command word `w` (R83 step 1): BUSY becomes 1, CMD takes the word, and the word and the ARG values
are latched. The model's `slack` is taken from `latencies` (log 1). -/
def State.accept (s : State) (w : Word) : State :=
  { s with
    cmd := w
    inFlight := some { word := w, arg0 := s.arg0, arg1 := s.arg1, arg2 := s.arg2, slack := s.latencies.headD 0 }
    latencies := s.latencies.tail }

/-- Validation, effect and completion of a command (R83 steps 3 and 4). A slot out of range is IllegalCommand and comes
before the command's own checks (R92, R94, R183). `effect` is the command's pseudocode: the state it leaves, or the
error it raises, in which case the state is the one before it (R18, R180). The one shared operation for errors: the
engine has no traps (R188). -/
def command (i : Instr) (s : State) (effect : Except ErrorCode State) :
    Host.Outcome State Fault Refusal :=
  if i.wellFormed s.params then
    match effect with
    | .ok t => .next (t.complete .ok)
    | .error e => .next (s.complete e)
  else .next (s.complete .illegalCommand)

end Sys2Proof.Machine
end

