-- ==== Sys2Proof/Machine/Bus.lean ====
section
/-! DEFINITION. The host's accesses (20_memory.md R58 to R74): the map of the aperture, the access rules, reads, writes,
and the reset input (70_reset_and_hazards.md R200 to R202). -/

namespace Sys2Proof.Machine

/-- The bytes an access covers (R69, R70). -/
def AccessSize.bytes : AccessSize → Nat
  | .byte => 1
  | .half => 2
  | .word => 4

/-- The aperture is 2 MiB (R59). -/
def apertureBytes : Nat := 0x200000

/-- `PBASE` (R66). -/
def packedBase : Nat := 0x100000

/-- The bus address is one of the aperture's (R59). -/
def Access.inAperture (p : Params) (a : Access) : Bool :=
  decide (p.apertureBase ≤ a.addr ∧ a.addr < p.apertureBase + apertureBytes)

/-- The offset into the aperture (R59). -/
def Access.offset (p : Params) (a : Access) : Nat := a.addr - p.apertureBase

/-- The widths and alignments of R69 and R70: in the register region 32-bit accesses at multiples of 4; in the packed
region any width at its natural alignment. -/
def legalAt (size : AccessSize) (off : Nat) : Bool :=
  if off < packedBase then decide (size = .word ∧ off % 4 = 0) else decide (off % size.bytes = 0)

/-- The offset lies in the packed window (R66). -/
def inPackedWindow (p : Params) (off : Nat) : Bool :=
  decide (packedBase ≤ off ∧ off < packedBase + 4 * p.slotWords)

/-- A control register (R60). -/
inductive ControlReg where
  | cmd
  | arg0
  | arg1
  | arg2
  | status
  | result
  | pcount
  | pkW
  | pkH
  deriving DecidableEq, Repr

/-- A word of a descriptor group: W, H or GAIN (R61, R62). -/
inductive DescWord where
  | width
  | height
  | gain
  deriving DecidableEq, Repr

/-- What stands at a word-aligned offset of the register region (R60 to R63). -/
inductive RegTarget where
  | control (r : ControlReg)
  | buffer (slot : Slot) (word : DescWord)
  | kernel (slot : Slot) (word : DescWord)
  | reserved
  deriving DecidableEq, Repr

/-- The control registers' offsets (R60). -/
def controlRegAt (off : Nat) : Option ControlReg :=
  match off with
  | 0x000 => some .cmd
  | 0x004 => some .arg0
  | 0x008 => some .arg1
  | 0x00C => some .arg2
  | 0x010 => some .status
  | 0x014 => some .result
  | 0x018 => some .pcount
  | 0x01C => some .pkW
  | 0x020 => some .pkH
  | _ => none

/-- The word of a descriptor group at `off`; the one at 0xC is reserved (R61, R62). -/
def descWordAt (off : Nat) : Option DescWord :=
  match off % 16 with
  | 0x0 => some .width
  | 0x4 => some .height
  | 0x8 => some .gain
  | _ => none

/-- The slot of the descriptor group at `off`: groups of 16 bytes, 16 to a bank (R61, R62). -/
def descSlotAt (off : Nat) : Slot := ⟨off / 16 % 16, Nat.mod_lt _ (by decide)⟩

/-- The register map (R60 to R63). A descriptor of a slot the implementation does not have is reserved. -/
def regTarget (p : Params) (off : Nat) : RegTarget :=
  if off < 0x100 then
    match controlRegAt off with
    | some r => .control r
    | none => .reserved
  else if off < 0x200 then
    match descWordAt off with
    | some f => if p.bufferSlotOk (descSlotAt off) then .buffer (descSlotAt off) f else .reserved
    | none => .reserved
  else if off < 0x300 then
    match descWordAt off with
    | some f => if p.kernelSlotOk (descSlotAt off) then .kernel (descSlotAt off) f else .reserved
    | none => .reserved
  else .reserved

/-- The value of a control register (R40 to R47). -/
def State.readControl (s : State) : ControlReg → Word
  | .cmd => s.cmd
  | .arg0 => s.arg0
  | .arg1 => s.arg1
  | .arg2 => s.arg2
  | .status => s.status
  | .result => s.result
  | .pcount => s.pcount
  | .pkW => s.pkW
  | .pkH => s.pkH

/-- The value of a buffer descriptor's word (R61). -/
def Buffer.descriptor (b : Buffer) : DescWord → Word
  | .width => BitVec.ofNat 32 b.width
  | .height => BitVec.ofNat 32 b.height
  | .gain => b.gain

/-- The value of a kernel descriptor's word; GAIN is sign-extended (R62). -/
def Kernel.descriptor (k : Kernel) : DescWord → Word
  | .width => BitVec.ofNat 32 k.width
  | .height => BitVec.ofNat 32 k.height
  | .gain => k.gain.signExtend 32

/-- A 32-bit read in the register region. It has no side effect (R73); a reserved offset reads 0 (R63). -/
def State.readReg (s : State) (off : Nat) : Word :=
  match regTarget s.params off with
  | .control r => s.readControl r
  | .buffer d f => (s.buf d).descriptor f
  | .kernel k f => (s.ker k).descriptor f
  | .reserved => 0

/-- A write of a control register: CMD issues a command (R40, R65), ARG0 to ARG2 take the value (R41), STATUS clears
ERR_STICKY by bit 1 (R45), and the others are read-only (R64). -/
def State.writeControl (s : State) (v : Word) : ControlReg → State
  | .cmd => s.accept v
  | .arg0 => { s with arg0 := v }
  | .arg1 => { s with arg1 := v }
  | .arg2 => { s with arg2 := v }
  | .status => s.writeStatus v
  | .result => s
  | .pcount => s
  | .pkW => s
  | .pkH => s

/-- A write of BUF_GAIN(d): all 32 bits of the slot's GAIN, and nothing else (R61). -/
def State.writeBufGain (s : State) (d : Slot) (v : Word) : State := s.setBuf d { s.buf d with gain := v }

/-- A 32-bit write in the register region (R60 to R64). -/
def State.writeReg (s : State) (off : Nat) (v : Word) : State :=
  match regTarget s.params off with
  | .control r => s.writeControl v r
  | .buffer d .gain => s.writeBufGain d v
  | .buffer _ .width => s
  | .buffer _ .height => s
  | .kernel _ _ => s
  | .reserved => s

/-- The data a legal read at `off` returns (R60 to R63, R66, R70). -/
def State.readData (s : State) (size : AccessSize) (off : Nat) : Word :=
  if off < packedBase then s.readReg off
  else if inPackedWindow s.params off then s.packedLE (off - packedBase) size.bytes
  else 0

/-- The state after a legal read at `off`. No read has a side effect (R73); a read of the packed window that covers an
undefined byte uses up a free draw of the model's (log 4). -/
def State.afterRead (s : State) (size : AccessSize) (off : Nat) : State :=
  if inPackedWindow s.params off then s.afterPackedRead (off - packedBase) size.bytes else s

/-- The state after a legal write of `v` at `off` (R60 to R64, R66, R70). -/
def State.afterWrite (s : State) (size : AccessSize) (off : Nat) (v : Word) : State :=
  if off < packedBase then s.writeReg off v
  else if inPackedWindow s.params off then { s with pm := s.pm.writeLE (off - packedBase) size.bytes v }
  else s

/-- The access's reply reaches the host (R80; log 8). -/
def State.addReply (s : State) (r : Reply) : State := { s with replies := r :: s.replies }

/-- A refused access: a bus error to the host, recorded as the host's fault and not cleared, and no change of the block
(R71, R194; log 5). -/
def State.refuseAccess (s : State) : State := { s.addReply .busError with hostFault := true }

/-- An access that reached the block (R58 to R73). -/
def State.access (s : State) (a : Access) : State :=
  if legalAt a.size (a.offset s.params) then
    match a.kind with
    | .read => (s.afterRead a.size (a.offset s.params)).addReply (.data (s.readData a.size (a.offset s.params)))
    | .write v => (s.afterWrite a.size (a.offset s.params) v).addReply .written
  else s.refuseAccess

/-- Reset is asserted: every item of R52 takes its reset value and a command in flight is abandoned (R200, R201). The
host agent, which the reset input does not reach, keeps its moves and its record (log 12). -/
def State.underReset (s : State) : State :=
  { State.resetWith s.params with
    resetAsserted := true
    hostQueue := s.hostQueue
    replies := s.replies
    hostFault := s.hostFault
    latencies := s.latencies
    draws := s.draws }

/-- A STATUS read, the one access that is not held while a command is in flight (R74). -/
def Access.isStatusRead (p : Params) (a : Access) : Bool :=
  decide (a.inAperture p ∧ a.offset p = 0x010 ∧ a.size = .word ∧ a.kind = .read)

/-- The moves that can land while a command is in flight: a STATUS read (R74) and reset (R201). -/
def HostMove.lands (p : Params) : HostMove → Bool
  | .access a => a.isStatusRead p
  | .assertReset => true
  | .releaseReset => false

/-- One move of the host, at a moment when it is not held. -/
def hostMove (m : HostMove) (s : State) : Host.Outcome State Fault Refusal :=
  match m with
  | .assertReset => .next s.underReset
  | .releaseReset => .next { s with resetAsserted := false }
  | .access a =>
    if s.resetAsserted then .refused .accessDuringReset
    else if a.inAperture s.params then .next (s.access a)
    else .fault .outsideAperture

/-- The slack of the command in flight, if any, is used up by one (log 1). -/
def State.useSlack (s : State) : State :=
  { s with inFlight := s.inFlight.map fun c => { c with slack := c.slack - 1 } }

/-- The host takes the first of its moves, which leaves `rest` (R75). -/
def State.takeMove (s : State) (rest : List HostMove) : State := { s.useSlack with hostQueue := rest }

/-- The host's next move, taken from the queue; with none left, the block holds its state (R195). -/
def hostStep (s : State) : Host.Outcome State Fault Refusal :=
  match s.hostQueue with
  | [] => .next s
  | m :: rest => hostMove m (s.takeMove rest)

/-- The host's next move lands before the command `c` completes: the model's slack allows it and R74 or R201 does
(log 1). DESIGN CHOICE, log 18: only the first move counts, so a reset queued behind an access that R74 holds waits until
the command has completed and the access has been performed; the spec does not say what becomes of a held access when
reset is asserted. -/
def State.hostLands (s : State) (c : InFlight) : Bool :=
  match s.hostQueue with
  | [] => false
  | m :: _ => decide (0 < c.slack) && m.lands s.params

end Sys2Proof.Machine
end

