-- ==== Sys2Proof/Machine/PixelBuffer.lean ====
section
/-! DEFINITION. The pixel_buffer_store commands (40_pixel_buffer.md). -/

namespace Sys2Proof.Machine

/-- The dimension checks of CREATE and UNPACK, in their order (R100, R167, R183): the dimensions they admit. -/
def checkedDims (p : Params) (w h : Int) : Except ErrorCode (Nat × Nat) :=
  if w < 0 ∨ h < 0 then .error .invalidDimension
  else if w * h > (p.slotWords : Int) then .error .capacityExceeded
  else .ok (w.toNat, h.toNat)

/-- CREATE (R100). -/
def execCreate (d : Slot) (s : State) : Host.Outcome State Fault Refusal :=
  command (.create d) s
    (match checkedDims s.params (signedOperand s.operand0) (signedOperand s.operand1) with
      | .error e => .error e
      | .ok (w, h) => .ok (s.setBuf d (newBuf w h)))

/-- RELEASE (R101). -/
def execRelease (d : Slot) (s : State) : Host.Outcome State Fault Refusal :=
  command (.release d) s (.ok (s.setBuf d (newBuf 0 0)))

/-- GET (R102). -/
def execGet (src : Slot) (s : State) : Host.Outcome State Fault Refusal :=
  command (.get src) s
    (.ok (s.setResult
      (((s.buf src).get (signedOperand s.operand0) (signedOperand s.operand1)).signExtend 32)))

/-- SET (R103). -/
def execSet (d : Slot) (s : State) : Host.Outcome State Fault Refusal :=
  command (.set d) s
    (.ok (s.setBuf d
      ((s.buf d).set (signedOperand s.operand0) (signedOperand s.operand1) (valueOperand s.operand2))))

/-- FILL (R104). -/
def execFill (d : Slot) (s : State) : Host.Outcome State Fault Refusal :=
  command (.fill d) s (.ok (s.setBuf d ((s.buf d).filled (valueOperand s.operand0))))

end Sys2Proof.Machine
end

