-- ==== Sys2Proof/Machine/ChannelPack.lean ====
section
/-! DEFINITION. The channel_pack_unpack_interleaver commands (44_channel_pack.md). -/

namespace Sys2Proof.Machine

/-- `c8(v)`: 0 for a negative sample, else its low 8 bits (R163). -/
def c8 (v : Sample) : Byte := if v.toInt < 0 then 0 else v.setWidth 8

/-- The packed pixel of four samples: red in 7:0, green, blue, alpha in 31:24 (R162, R164). -/
def packedPixel (r g b a : Sample) : Word := (c8 a ++ c8 b ++ c8 g ++ c8 r : BitVec (8 + 8 + 8 + 8))

/-- Same width and same height (R165). -/
def Buffer.sameShape (a b : Buffer) : Bool := decide (a.width = b.width ∧ a.height = b.height)

/-- `PM[i] <- {alpha, blue, green, red}` for `i` in 0 .. n-1 (R164). -/
def interleaved (m : Memory) (r g b a : Buffer) (n : Nat) : Memory :=
  (List.range n).foldl (fun m i => m.writePixel i (packedPixel (r.at i) (g.at i) (b.at i) (a.at i))) m

/-- PACK (R164, R165). -/
def execPack (r g b a : Slot) (s : State) : Host.Outcome State Fault Refusal :=
  command (.pack r g b a) s
    (if (s.buf g).sameShape (s.buf r) && (s.buf b).sameShape (s.buf r) && (s.buf a).sameShape (s.buf r) then
      .ok (s.setPacked
        (interleaved s.pm (s.buf r) (s.buf g) (s.buf b) (s.buf a) ((s.buf r).width * (s.buf r).height))
        ((s.buf r).width * (s.buf r).height) (s.buf r).width (s.buf r).height)
      else .error .dimensionMismatch)

/-- The plane of lane `j`: `zext_16(P[i][8*j+7 : 8*j])` at flat index `i` (R166, R168). Lane `j` of `PM[i]` is the byte
at `4*i + j` (20_memory.md R67). -/
def lanePlane (s : State) (w h j : Nat) : Buffer :=
  bufferOf w h fun i => (s.packedByte (4 * i + j)).setWidth 16

/-- UNPACK (R166, R167). The pixels are read before any write, and the destinations written in the order red, green,
blue, alpha (R169). -/
def execUnpack (r g b a : Slot) (s : State) : Host.Outcome State Fault Refusal :=
  command (.unpack r g b a) s
    (match checkedDims s.params (signedOperand s.operand0) (signedOperand s.operand1) with
      | .error e => .error e
      | .ok (w, h) =>
        .ok (((((s.afterPackedRead 0 (4 * (w * h))).setBuf r (lanePlane s w h 0)).setBuf g (lanePlane s w h 1)).setBuf b
          (lanePlane s w h 2)).setBuf a (lanePlane s w h 3)))

end Sys2Proof.Machine
end

