-- ==== Sys2Proof/Machine/Control.lean ====
section
/-! DEFINITION. The control command (45_control.md). -/

namespace Sys2Proof.Machine

/-- NOP: no effect but its completion (R176). -/
def execNop (s : State) : Host.Outcome State Fault Refusal := command .nop s (.ok s)

end Sys2Proof.Machine
end

