-- ==== Sys2Proof/Machine/Convolution.lean ====
section
/-! DEFINITION. The convolution_engine commands (41_convolution.md). -/

namespace Sys2Proof.Machine

/-- The kernel KLOAD builds from a buffer: a copy of its dimensions and samples, GAIN `wrap16` of their exact sum
(R122, R124). -/
def kernelOf (b : Buffer) : Kernel :=
  { width := b.width, height := b.height, gain := wrap16 (sampleSum b.samples), weights := b.samples }

/-- KLOAD (R122). -/
def execKload (k src : Slot) (s : State) : Host.Outcome State Fault Refusal :=
  command (.kload k src) s
    (if (s.buf src).width * (s.buf src).height > s.params.kmaxTaps then .error .capacityExceeded
      else .ok (s.setKer k (kernelOf (s.buf src))))

/-- `tx = ker.W div 2` (R127). -/
def Kernel.tx (k : Kernel) : Nat := k.width / 2

/-- `ty = ker.H div 2` (R127). -/
def Kernel.ty (k : Kernel) : Nat := k.height / 2

/-- The border condition of R128. -/
def onBorder (src : Buffer) (ker : Kernel) (x y : Int) : Bool :=
  decide (y < ker.ty ∨ y > (src.height : Int) - ker.ty ∨ x < ker.tx ∨ x > (src.width : Int) - ker.tx)

/-- The far-edge half of the interior condition of R128, tested where the pixel is not on the border. -/
def beforeFarEdge (src : Buffer) (ker : Kernel) (x y : Int) : Bool :=
  decide (x < (src.width : Int) - ker.tx ∧ y < (src.height : Int) - ker.ty)

/-- The sample tap (xx, yy) reads: the centre pixel in the literal variant (R129), the offset pixel in the corrected
one (R130). -/
def tapSample (src : Buffer) (corrected : Bool) (x y xx yy : Int) : Int :=
  (if corrected then src.get (x + xx) (y + yy) else src.get x y).toInt

/-- The accumulated sum over yy in -ty .. ty and xx in -tx .. tx (R125). The ranges are counted from 0: `j = yy + ty`
and `i = xx + tx` are the kernel coordinates. -/
def tapSum (src : Buffer) (ker : Kernel) (corrected : Bool) (x y : Int) : Int :=
  sumRange (2 * ker.ty + 1) fun j =>
    sumRange (2 * ker.tx + 1) fun i =>
      tapSample src corrected x y ((i : Int) - ker.tx) ((j : Int) - ker.ty) * (ker.get i j).toInt

/-- Degain: division by the kernel's gain, when D = 1 and that gain is positive (R131, C1). -/
def degained (degain : Bool) (ker : Kernel) (sum : Int) : Int :=
  if degain = true ∧ ker.gain.toInt > 0 then tdiv sum ker.gain.toInt else sum

/-- Narrowing by the S bit (R131, R87). -/
def narrowed (saturate : Bool) (v : Int) : Sample := if saturate then sat16 v else wrap16 v

/-- The output pixel (x, y): 0 on the border, the accumulated value in the interior, and NewBuf's 0 where it is
untouched (R125, R128). -/
def convPixel (src : Buffer) (ker : Kernel) (degain saturate corrected : Bool) (x y : Int) : Sample :=
  if onBorder src ker x y then 0
  else if beforeFarEdge src ker x y then narrowed saturate (degained degain ker (tapSum src ker corrected x y))
  else 0

/-- The output buffer (R125, R126); all zero for a kernel without weights (R132). -/
def convolved (src : Buffer) (ker : Kernel) (degain saturate corrected : Bool) : Buffer :=
  if ker.width * ker.height > 0 then
    bufferOf src.width src.height fun i =>
      convPixel src ker degain saturate corrected ((i % src.width : Nat) : Int) ((i / src.width : Nat) : Int)
  else newBuf src.width src.height

/-- CONV (R125). -/
def execConv (d src k : Slot) (degain saturate corrected : Bool) (s : State) :
    Host.Outcome State Fault Refusal :=
  command (.conv d src k degain saturate corrected) s
    (.ok (s.setBuf d (convolved (s.buf src) (s.ker k) degain saturate corrected)))

end Sys2Proof.Machine
end

