-- ==== Sys2Proof/Machine/Difference.lean ====
section
/-! DEFINITION. The saturating_difference_unit command (42_difference.md). -/

namespace Sys2Proof.Machine

/-- One output sample, computed wide and narrowed back: the literal variant clamps `a` alone (R147), the corrected one
clamps `a - b` to the symmetric 16-bit range (R148). -/
def diffSample (corrected : Bool) (a b : Sample) : Sample :=
  if corrected then BitVec.ofInt 16 (clamp (a.toInt - b.toInt) (-32767) 32767)
  else BitVec.ofInt 16 (clamp a.toInt (-2147483647) 2147483647)

/-- The output buffer (R145, R149). -/
def difference (corrected : Bool) (a b : Buffer) : Buffer :=
  bufferOf a.width a.height fun i => diffSample corrected (a.at i) (b.at i)

/-- DIFF (R145, R146). -/
def execDiff (d a b : Slot) (corrected : Bool) (s : State) : Host.Outcome State Fault Refusal :=
  command (.diff d a b corrected) s
    (if (s.buf a).width ≠ (s.buf b).width ∨ (s.buf a).height ≠ (s.buf b).height then .error .dimensionMismatch
      else .ok (s.setBuf d (difference corrected (s.buf a) (s.buf b))))

end Sys2Proof.Machine
end

