-- ==== Sys2Proof/Machine/Downscale.lean ====
section
/-! DEFINITION. The block_downscale_averaging_unit command (43_downscale.md). -/

namespace Sys2Proof.Machine

/-- The exact sum of the `n × n` block of output pixel (x, y) (R156). -/
def blockSum (src : Buffer) (n x y : Nat) : Int :=
  sumRange n fun yy => sumRange n fun xx =>
    (src.get (((x * n + xx : Nat) : Int)) (((y * n + yy : Nat) : Int))).toInt

/-- The output buffer: block sums divided by `n*n`, truncated (R153, R155, R156). The quotient fits 16 bits. -/
def downscaled (src : Buffer) (n : Nat) : Buffer :=
  bufferOf (src.width / n) (src.height / n) fun i =>
    BitVec.ofInt 16 (tdiv (blockSum src n (i % (src.width / n)) (i / (src.width / n))) ((n : Int) * n))

/-- SCALEDOWN (R153, R154). -/
def execScaledown (d src : Slot) (s : State) : Host.Outcome State Fault Refusal :=
  command (.scaledown d src) s
    (if signedOperand s.operand0 ≤ 1 then .error .invalidArgument
      else .ok (s.setBuf d (downscaled (s.buf src) (signedOperand s.operand0).toNat)))

end Sys2Proof.Machine
end

