-- ==== Sys2Proof/Machine/Dispatch.lean ====
section
/-! DEFINITION. One arm per command (30_encoding.md R90): exec runs a decoded command to its completion. -/

namespace Sys2Proof.Machine

def exec (i : Instr) (s : State) : Host.Outcome State Fault Refusal :=
  match i with
  | .nop => Sys2Proof.Machine.execNop s
  | .create d => Sys2Proof.Machine.execCreate d s
  | .release d => Sys2Proof.Machine.execRelease d s
  | .get src => Sys2Proof.Machine.execGet src s
  | .set d => Sys2Proof.Machine.execSet d s
  | .fill d => Sys2Proof.Machine.execFill d s
  | .kload k src => Sys2Proof.Machine.execKload k src s
  | .conv d src k degain saturate corrected => Sys2Proof.Machine.execConv d src k degain saturate corrected s
  | .diff d a b corrected => Sys2Proof.Machine.execDiff d a b corrected s
  | .scaledown d src => Sys2Proof.Machine.execScaledown d src s
  | .pack r g b a => Sys2Proof.Machine.execPack r g b a s
  | .unpack r g b a => Sys2Proof.Machine.execUnpack r g b a s

end Sys2Proof.Machine
end

