-- ==== Sys2Proof/Machine/Fetch.lean ====
section
/-! DEFINITION. Running the command in flight, and the assembly of a command statement into host writes (30_encoding.md
R83, R94, R98, R99). -/

namespace Sys2Proof.Machine

/-- Decode the word in flight and run it; an illegal word completes with IllegalCommand (R83 steps 2 to 4, R94). -/
def runWord (w : Word) (s : State) : Host.Outcome State Fault Refusal :=
  match decode s.params w with
  | .ok i => exec i s
  | .error _ => .next (s.complete .illegalCommand)

/-- The state in which the word `w` is the command in flight, accepted with the current ARG values, and completes in the
next step. What a host write of `w` to CMD leaves, with no host move landing before completion. -/
def State.inFlightWord (s : State) (w : Word) : State :=
  { s with
    cmd := w
    inFlight := some { word := w, arg0 := s.arg0, arg1 := s.arg1, arg2 := s.arg2, slack := 0 } }

/-- A 32-bit host write of `v` at the aperture offset `off` (R98: WR). -/
def wr (p : Params) (off : Nat) (v : Word) : HostMove :=
  .access { addr := p.apertureBase + off, size := .word, kind := .write v }

/-- A 32-bit host read at the aperture offset `off` (R98: RD). -/
def rd (p : Params) (off : Nat) : HostMove :=
  .access { addr := p.apertureBase + off, size := .word, kind := .read }

/-- An 8-bit host read at the aperture offset `off` (R98: RDB). -/
def rdb (p : Params) (off : Nat) : HostMove :=
  .access { addr := p.apertureBase + off, size := .byte, kind := .read }

/-- How many of ARG0, ARG1, ARG2, from ARG0 on, the command reads (R91). -/
def argCount : Instr → Nat
  | .nop => 0
  | .create _ => 2
  | .release _ => 0
  | .get _ => 2
  | .set _ => 3
  | .fill _ => 1
  | .kload _ _ => 0
  | .conv _ _ _ _ _ _ => 0
  | .diff _ _ _ _ => 0
  | .scaledown _ _ => 1
  | .pack _ _ _ _ => 0
  | .unpack _ _ _ _ => 2

/-- The host writes a command statement assembles to: one per ARG operand it reads, in order, then the command word to
CMD (R98). -/
def assemble (p : Params) (i : Instr) (a0 a1 a2 : Word) : List HostMove :=
  ([wr p 0x004 a0, wr p 0x008 a1, wr p 0x00C a2].take (argCount i)) ++ [wr p 0x000 (encode i)]

/-- The pseudo-instruction CLEAR b⟨d⟩ is FILL b⟨d⟩, 0 (R99). -/
def assembleClear (p : Params) (d : Slot) : List HostMove := assemble p (.fill d) 0 0 0

/-- The pseudo-instruction COPY b⟨d⟩, b⟨src⟩ is the literal DIFF of the source with itself (R99). -/
def assembleCopy (p : Params) (d src : Slot) : List HostMove := assemble p (.diff d src src false) 0 0 0

end Sys2Proof.Machine
end

