-- ==== Sys2Proof/Machine/Step.lean ====
section
/-! DEFINITION. One step: the command in flight runs to its completion, or the host makes its next move (00_scope.md R5,
20_memory.md R74, R75, 60_exceptions.md R185, R186). -/

namespace Sys2Proof.Machine

/-- While a command is in flight only a STATUS read or reset can come before its completion; every other move is held
until it has completed (R74, R201; log 18). With no command in flight the host moves. -/
def step (s : State) : Host.Outcome State Fault Refusal :=
  match s.inFlight with
  | some c => if s.hostLands c then hostStep s else runWord c.word s
  | none => hostStep s

/-- The state whose next step runs the instruction whose bits are `w`: the engine has no program counter (R48), so the
word is placed as the command in flight, as its CMD write leaves it (log 8). -/
def State.withFetchWord (s : State) (nbits w : Nat) : State := s.inFlightWord (BitVec.ofNat 32 (w % 2 ^ nbits))

end Sys2Proof.Machine
end

