-- ==== Sys2Proof/Safety.lean ====
section
/-! DEFINITION. The invariants the spec states of the machine (10_state.md R31, R35, R37, 70_reset_and_hazards.md R200),
and what a finished and a clean run are (R207, R194). -/

namespace Sys2Proof.Machine

/-- A buffer's invariant (R30, R31): exactly `W*H` samples, within the slot's capacity and the width of W and H. -/
def Buffer.wf (p : Params) (b : Buffer) : Bool :=
  decide (b.samples.length = b.width * b.height ∧ b.width * b.height ≤ p.slotWords ∧ b.width < 2 ^ 31 ∧
    b.height < 2 ^ 31)

/-- A kernel's invariant (R35, R37): exactly `W*H` weights, within the capacity, and GAIN their wrapped sum. -/
def Kernel.wf (p : Params) (k : Kernel) : Bool :=
  decide (k.weights.length = k.width * k.height ∧ k.width * k.height ≤ p.kmaxTaps ∧ k.width < 2 ^ 31 ∧
    k.height < 2 ^ 31 ∧ k.gain = wrap16 (sampleSum k.weights))

/-- Packed memory is in canonical form and lies within its `4 * SLOT_WORDS` bytes (R38, R66). -/
abbrev packedWf (p : Params) (m : Memory) : Prop := m.wf ∧ ∀ c ∈ m, c.1 < 4 * p.slotWords

/-- The command in flight is the one CMD shows (R40), and its latched operands are the ARG registers, which no access
reaches while it is in flight (R74, R205). -/
def InFlight.matchesRegs (s : State) (c : InFlight) : Bool :=
  decide (c.word = s.cmd ∧ c.arg0 = s.arg0 ∧ c.arg1 = s.arg1 ∧ c.arg2 = s.arg2)

/-- The invariant of the machine. -/
structure State.Inv (s : State) : Prop where
  /-- R6. -/
  params : s.params.legal = true
  /-- R30. -/
  nbuf : s.bufs.length = s.params.nbuf
  /-- R30, R31. -/
  bufs : ∀ b ∈ s.bufs, b.wf s.params = true
  /-- R35. -/
  nker : s.kers.length = s.params.nker
  /-- R35, R37. -/
  kers : ∀ k ∈ s.kers, k.wf s.params = true
  /-- R38. -/
  pm : packedWf s.params s.pm
  /-- R47: the words PACK wrote are as many as its sources' width times height. -/
  pcount : s.pcount.toNat = s.pkW.toNat * s.pkH.toNat
  /-- R40, R50. -/
  inFlight : ∀ c, s.inFlight = some c → c.matchesRegs s = true
  /-- R200: while reset is asserted the state is exactly the table of R52. -/
  reset : s.resetAsserted = true → s = s.underReset

/-- Every item of the table of R52 has its reset value. -/
def State.atResetTable (s : State) : Prop :=
  s.bufs = List.replicate s.params.nbuf { width := 0, height := 0, gain := 0x3F800000#32, samples := [] } ∧
    s.kers = List.replicate s.params.nker { width := 0, height := 0, gain := 0, weights := [] } ∧
    (∀ a, s.pm.read a = none) ∧ s.cmd = 0 ∧ s.arg0 = 0 ∧ s.arg1 = 0 ∧ s.arg2 = 0 ∧ s.status = 0 ∧ s.result = 0 ∧
    s.pcount = 0 ∧ s.pkW = 0 ∧ s.pkH = 0 ∧ s.inFlight = none

/-- NBUF buffer slots and NKER kernel slots are there (R30, R35): the part of the invariant that says a slot a checked
command names exists. -/
def State.slotsPresent (s : State) : Prop :=
  s.bufs.length = s.params.nbuf ∧ s.kers.length = s.params.nker

/-! ## Frames: what a command may leave unchanged -/

/-- The command and operand registers, the parameters, the reset input and the host agent are as before: no command writes
them (10_state.md R40, R41). -/
def SameInterface (s t : State) : Prop :=
  t.params = s.params ∧ t.cmd = s.cmd ∧ t.arg0 = s.arg0 ∧ t.arg1 = s.arg1 ∧ t.arg2 = s.arg2 ∧
    t.resetAsserted = s.resetAsserted ∧ t.hostQueue = s.hostQueue ∧ t.replies = s.replies ∧
    t.hostFault = s.hostFault ∧ t.latencies = s.latencies

/-- RESULT is as before (R46). -/
def SameResult (s t : State) : Prop := t.result = s.result

/-- PCOUNT, PK_W and PK_H are as before (R47). -/
def SamePackCounts (s t : State) : Prop := t.pcount = s.pcount ∧ t.pkW = s.pkW ∧ t.pkH = s.pkH

/-- Every byte of packed memory outside `0 .. n-1` reads as before, the undefined ones included (R39). -/
def SamePackedFrom (n : Nat) (s t : State) : Prop := ∀ a, n ≤ a → t.pm.read a = s.pm.read a

/-- Every buffer slot not listed is as before (R34, R105). -/
def SameBufsExcept (ds : List Slot) (s t : State) : Prop :=
  t.bufs.length = s.bufs.length ∧ ∀ e, e ∉ ds → t.buf e = s.buf e

/-- Every kernel slot not listed is as before (R36). -/
def SameKersExcept (ks : List Slot) (s t : State) : Prop :=
  t.kers.length = s.kers.length ∧ ∀ k, k ∉ ks → t.ker k = s.ker k

/-- The model's draw counter is as before. -/
def SameDraws (s t : State) : Prop := t.draws = s.draws

/-- STATUS after a command: not busy, and ERR_STICKY set by a non-zero code and otherwise kept (R43, R45, R181, R182). -/
def StatusCompleted (s t : State) : Prop :=
  t.inFlight = none ∧ t.errSticky = (s.errSticky || decide (t.err ≠ .ok))

/-- The state with every buffer's GAIN replaced by 0: two states that agree on it differ in GAINs at most (R33). -/
def State.withoutGains (s : State) : State := { s with bufs := s.bufs.map fun b => { b with gain := 0 } }

/-- The state in which a command issued now finds these operands. -/
def State.withArgs (s : State) (a0 a1 a2 : Word) : State :=
  { s with arg0 := a0, arg1 := a1, arg2 := a2, inFlight := none }

/-- The operands a command finds in this state: those its CMD write latched (R83, R205), and with no command in flight the
ARG registers (DEDUCED, log 9). -/
def State.findsArgs (s : State) (a0 a1 a2 : Word) : Prop :=
  match s.inFlight with
  | some c => c.arg0 = a0 ∧ c.arg1 = a1 ∧ c.arg2 = a2
  | none => s.arg0 = a0 ∧ s.arg1 = a1 ∧ s.arg2 = a2

/-- A program, a sequence of host accesses, has ended and its commands have completed (R207). -/
def State.finished (s : State) : Bool := s.hostQueue.isEmpty && s.inFlight.isNone

/-- No access of the host has been refused (R194). -/
def State.clean (s : State) : Bool := !s.hostFault

end Sys2Proof.Machine
end

