-- ==== Sys2Proof/Certificates/Slice0/Obligations.lean ====
section
/-! DEFINITION. The statements for the provers, each a formalisation of rules of spec/. Where a statement rests on a choice
of the model, its docstring names the log entry. `operand0` to `operand2` are the ARG values the command in flight latched and,
where a statement speaks of `exec` with no command in flight, the ARG registers (DEDUCED, log 9; `CommandsReadOnlyTheirArgs`
states both). -/

open Sys2Proof Sys2Proof.Machine

/-! ## Reset -/

/-- The table of 10_state.md R52, item by item, for every choice of the parameters. The last two lines say that
`State.reset` is that state for the defaults of R6: R6 leaves the parameters open in a range, and that `State.reset` takes
the defaults is the model's choice (log 2). The aperture base is the model's choice too (log 3) and is not stated. -/
def Obligations.ResetLeavesTheTable : Prop :=
  (∀ p : Params,
    (State.resetWith p).params = p ∧
    (State.resetWith p).bufs.length = p.nbuf ∧ (State.resetWith p).kers.length = p.nker ∧
    (∀ d : Slot, (State.resetWith p).buf d = { width := 0, height := 0, gain := 0x3F800000#32, samples := [] }) ∧
    (∀ k : Slot, (State.resetWith p).ker k = { width := 0, height := 0, gain := 0, weights := [] }) ∧
    (∀ a : Nat, (State.resetWith p).pm.read a = none) ∧
    (State.resetWith p).cmd = 0 ∧ (State.resetWith p).arg0 = 0 ∧ (State.resetWith p).arg1 = 0 ∧
    (State.resetWith p).arg2 = 0 ∧ (State.resetWith p).status = 0 ∧ (State.resetWith p).result = 0 ∧
    (State.resetWith p).pcount = 0 ∧ (State.resetWith p).pkW = 0 ∧ (State.resetWith p).pkH = 0 ∧
    (State.resetWith p).inFlight = none) ∧
  State.reset.params.nbuf = 8 ∧ State.reset.params.nker = 4 ∧ State.reset.params.slotWords = 65536 ∧
  State.reset.params.kmaxTaps = 256 ∧ State.reset = State.resetWith State.reset.params

/-- The state after reset meets the invariant, for every legal choice of the parameters. -/
def Obligations.ResetMeetsInvariant : Prop :=
  (∀ p : Params, p.legal = true → (State.resetWith p).Inv) ∧ State.reset.Inv

/-- When the host's next move is to assert reset and no command can complete before it, every item of R52 takes its reset
value, whatever was in flight. That the move can come before the completion is data of the state (the model's choice, log
1); the host agent's own fields are kept (the model's choice, log 12), and are not stated. Releasing reset changes nothing
but its level, so from a state that meets the invariant every item of R52 still has its reset value then. -/
def Obligations.ResetAbandonsCommand : Prop :=
  (∀ (s : State) (rest : List HostMove), s.hostQueue = .assertReset :: rest →
    (∀ c, s.inFlight = some c → 0 < c.slack) →
    ∃ t, step s = .next t ∧ t.resetAsserted = true ∧ t.params = s.params ∧ t.atResetTable) ∧
  (∀ (s : State) (rest : List HostMove), s.hostQueue = .releaseReset :: rest → s.inFlight = none →
    step s = .next { s with hostQueue := rest, resetAsserted := false }) ∧
  (∀ (s : State) (rest : List HostMove), s.Inv → s.resetAsserted = true → s.hostQueue = .releaseReset :: rest →
    ∃ t, step s = .next t ∧ t.resetAsserted = false ∧ t.params = s.params ∧ t.atResetTable)

/-! ## Encoding -/

/-- Words of 95_test_vectors.md, one or more of every family, decode to the commands they stand for. -/
def Obligations.SpecWordsDecode : Prop :=
  decode Params.default 0x00000000#32 = .ok .nop ∧
  decode Params.default 0x00000301#32 = .ok (.create 3) ∧
  decode Params.default 0x00000203#32 = .ok (.get 2) ∧
  decode Params.default 0x00001106#32 = .ok (.kload 1 1) ∧
  decode Params.default 0x05000207#32 = .ok (.conv 2 0 0 true false true) ∧
  decode Params.default 0x00010207#32 = .ok (.conv 2 0 1 false false false) ∧
  decode Params.default 0x04010208#32 = .ok (.diff 2 0 1 true) ∧
  decode Params.default 0x04000109#32 = .ok (.scaledown 1 0) ∧
  decode Params.default 0x0032100A#32 = .ok (.pack 0 1 2 3) ∧
  decode Params.default 0x0076540B#32 = .ok (.unpack 4 5 6 7) ∧
  decode Params.default 0x00000109#32 = .error .literalDownscale ∧
  decode Params.default 0x08000107#32 = .error .reservedBits ∧
  decode Params.default 0x0000000C#32 = .error .unknownOpcode ∧
  decode Params.default 0x01010208#32 = .error .fixedField ∧
  decode Params.default 0x00000801#32 = .error .slotOutOfRange ∧
  decode Params.default 0x00007406#32 = .error .slotOutOfRange

/-- Decoding an encoded well-formed command gives it back, with every slot field and mode bit at every value. -/
def Obligations.DecodeInvertsEncode : Prop :=
  ∀ (p : Params) (i : Instr), i.wellFormed p = true → decode p (encode i) = .ok i

/-- A word that decodes is the encoding of what it decodes to: no two words have one meaning, and no bit of an accepted
word is ignored. -/
def Obligations.EncodeInvertsDecode : Prop :=
  ∀ (p : Params) (w : Word) (i : Instr), decode p w = .ok i → i.wellFormed p = true ∧ encode i = w

/-- The list of R94: a word is rejected exactly if its opcode is 0x0C to 0xFF, or a bit of 31:27 is set, or a field that its
row fixes to 0 is not (SCALEDOWN's V is fixed to 1), or a slot field is out of range. -/
def Obligations.IllegalWordsAreExactlyTheListed : Prop :=
  ∀ (p : Params) (w : Word),
    (∃ e, decode p w = .error e) ↔
      (0x0C ≤ (fieldOp w).toNat ∨ w.extractLsb' 27 5 ≠ 0 ∨
      ((fieldOp w).toNat = 0x00 ∧ w ≠ 0) ∨
      (1 ≤ (fieldOp w).toNat ∧ (fieldOp w).toNat ≤ 5 ∧
        (fieldB w ≠ 0 ∨ fieldC w ≠ 0 ∨ fieldD w ≠ 0 ∨ bitDegain w ∨ bitSaturate w ∨ bitVariant w ∨
          p.nbuf ≤ (fieldA w).val)) ∨
      ((fieldOp w).toNat = 0x06 ∧
        (fieldC w ≠ 0 ∨ fieldD w ≠ 0 ∨ bitDegain w ∨ bitSaturate w ∨ bitVariant w ∨
          p.nker ≤ (fieldA w).val ∨ p.nbuf ≤ (fieldB w).val)) ∨
      ((fieldOp w).toNat = 0x07 ∧
        (fieldD w ≠ 0 ∨ p.nbuf ≤ (fieldA w).val ∨ p.nbuf ≤ (fieldB w).val ∨ p.nker ≤ (fieldC w).val)) ∨
      ((fieldOp w).toNat = 0x08 ∧
        (fieldD w ≠ 0 ∨ bitDegain w ∨ bitSaturate w ∨
          p.nbuf ≤ (fieldA w).val ∨ p.nbuf ≤ (fieldB w).val ∨ p.nbuf ≤ (fieldC w).val)) ∨
      ((fieldOp w).toNat = 0x09 ∧
        (fieldC w ≠ 0 ∨ fieldD w ≠ 0 ∨ bitDegain w ∨ bitSaturate w ∨ bitVariant w = false ∨
          p.nbuf ≤ (fieldA w).val ∨ p.nbuf ≤ (fieldB w).val)) ∨
      (0x0A ≤ (fieldOp w).toNat ∧ (fieldOp w).toNat ≤ 0x0B ∧
        (bitDegain w ∨ bitSaturate w ∨ bitVariant w ∨
          p.nbuf ≤ (fieldA w).val ∨ p.nbuf ≤ (fieldB w).val ∨ p.nbuf ≤ (fieldC w).val ∨
          p.nbuf ≤ (fieldD w).val)))

/-! ## Steps and the life of a command -/

/-- When the word in flight decodes to `i` and the host's next move is not one that lands before completion, the step is
`exec i`, with nothing added around it. In particular for a word just placed by `withFetchWord`. The split of a command
into an accepting and a running step is the model's (log 1). -/
def Obligations.StepRunsTheDecodedCommand : Prop :=
  (∀ (s : State) (c : InFlight) (i : Instr), s.inFlight = some c → s.hostLands c = false →
    decode s.params c.word = .ok i → step s = exec i s) ∧
  (∀ (s : State) (w : Nat) (i : Instr), decode s.params (BitVec.ofNat 32 (w % 2 ^ 32)) = .ok i →
    step (s.withFetchWord 32 w) = exec i (s.withFetchWord 32 w))

/-- An illegal word in flight, and a command with a slot out of range whatever its operands, completes with
IllegalCommand and changes nothing but STATUS. -/
def Obligations.IllegalCommandChangesOnlyStatus : Prop :=
  (∀ (s : State) (c : InFlight) (e : DecodeError), s.inFlight = some c → s.hostLands c = false →
    decode s.params c.word = .error e →
    step s = .next { s with inFlight := none, err := .illegalCommand, errSticky := true }) ∧
  (∀ (i : Instr) (s : State), i.wellFormed s.params = false →
    exec i s = .next { s with inFlight := none, err := .illegalCommand, errSticky := true })

/-- Every command, in every state, completes: BUSY is 0, and ERR_STICKY is set by a non-zero code and otherwise kept. (That
UNPACK completes where it reads undefined bytes is the model's choice, log 4.) -/
def Obligations.EveryCommandCompletes : Prop :=
  ∀ (i : Instr) (s : State), ∃ t, exec i s = .next t ∧ t.busy = false ∧
    t.errSticky = (s.errSticky || decide (t.err ≠ .ok))

/-- A command that reports an error changes nothing but STATUS (CMD took the word at acceptance). -/
def Obligations.FailingCommandChangesOnlyStatus : Prop :=
  ∀ (i : Instr) (s t : State), exec i s = .next t → t.err ≠ .ok →
    t = { s with inFlight := none, err := t.err, errSticky := true }

/-- Each error code is reported only by the commands R179 lists for it, and only where it says. -/
def Obligations.ErrorCodesHaveTheirCauses : Prop :=
  ∀ (i : Instr) (s t : State), exec i s = .next t →
    (t.err = .invalidDimension → (∃ d, i = .create d) ∨ (∃ r g b a, i = .unpack r g b a)) ∧
    (t.err = .invalidDimension → signedOperand s.operand0 < 0 ∨ signedOperand s.operand1 < 0) ∧
    (t.err = .dimensionMismatch →
      (∃ d a b v, i = .diff d a b v ∧
        ((s.buf a).width ≠ (s.buf b).width ∨ (s.buf a).height ≠ (s.buf b).height)) ∨
      (∃ r g b a, i = .pack r g b a ∧ ∃ p ∈ [g, b, a],
        (s.buf p).width ≠ (s.buf r).width ∨ (s.buf p).height ≠ (s.buf r).height)) ∧
    (t.err = .invalidArgument → (∃ d src, i = .scaledown d src) ∧ signedOperand s.operand0 ≤ 1) ∧
    (t.err = .capacityExceeded →
      (((∃ d, i = .create d) ∨ (∃ r g b a, i = .unpack r g b a)) ∧
        (s.params.slotWords : Int) < signedOperand s.operand0 * signedOperand s.operand1) ∨
      (∃ k src, i = .kload k src ∧ s.params.kmaxTaps < (s.buf src).width * (s.buf src).height)) ∧
    (t.err = .illegalCommand ↔ i.wellFormed s.params = false)

/-- From a state that meets the invariant, a command in flight completes, or is abandoned by reset, within one step more
than the host moves that may land before it. -/
def Obligations.CommandEndsWithinItsSlack : Prop :=
  ∀ (s : State) (c : InFlight), s.Inv → s.inFlight = some c →
    ∃ k t, k ≤ c.slack + 1 ∧ core.run k s = .next t ∧ t.inFlight = none

/-- The host writes of a command statement, run from a state with no command in flight, leave the command in flight with
the operands it reads and change no slot and no packed memory. -/
def Obligations.AssembledWritesIssueTheCommand : Prop :=
  ∀ (s : State) (i : Instr) (a0 a1 a2 : Word) (rest : List HostMove),
    s.inFlight = none → s.resetAsserted = false → s.hostQueue = assemble s.params i a0 a1 a2 ++ rest →
    ∃ t c, core.run (argCount i + 1) s = .next t ∧ t.inFlight = some c ∧ c.word = encode i ∧ t.cmd = encode i ∧
      (1 ≤ argCount i → c.arg0 = a0) ∧ (2 ≤ argCount i → c.arg1 = a1) ∧ (3 ≤ argCount i → c.arg2 = a2) ∧
      t.hostQueue = rest ∧ t.bufs = s.bufs ∧ t.kers = s.kers ∧ t.pm = s.pm ∧ t.result = s.result

/-! ## The pixel buffer store and NOP -/

/-- NOP writes ERR = 0, keeps ERR_STICKY, and changes nothing else. -/
def Obligations.NopOnlyReportsSuccess : Prop :=
  ∀ s : State, exec .nop s = .next { s with inFlight := none, err := .ok }

/-- CREATE of admitted dimensions leaves W*H zero samples and GAIN 1.0 in the slot, and ERR 0. -/
def Obligations.CreateMakesZeroBuffer : Prop :=
  ∀ (s : State) (d : Slot), s.slotsPresent → d.val < s.params.nbuf →
    0 ≤ signedOperand s.operand0 → 0 ≤ signedOperand s.operand1 →
    signedOperand s.operand0 * signedOperand s.operand1 ≤ s.params.slotWords →
    ∃ t, exec (.create d) s = .next t ∧ t.err = .ok ∧ StatusCompleted s t ∧
      ((t.buf d).width : Int) = signedOperand s.operand0 ∧ ((t.buf d).height : Int) = signedOperand s.operand1 ∧
      (t.buf d).gain = 0x3F800000#32 ∧
      (t.buf d).samples.length = (t.buf d).width * (t.buf d).height ∧ ∀ v ∈ (t.buf d).samples, v = 0

/-- The errors of CREATE and UNPACK: a negative dimension first, then the capacity; nothing but STATUS changes. -/
def Obligations.BadDimensionsAreRejected : Prop :=
  ∀ (s : State) (i : Instr), ((∃ d, i = .create d) ∨ ∃ r g b a, i = .unpack r g b a) → i.wellFormed s.params = true →
    (signedOperand s.operand0 < 0 ∨ signedOperand s.operand1 < 0 →
      exec i s = .next { s with inFlight := none, err := .invalidDimension, errSticky := true }) ∧
    (0 ≤ signedOperand s.operand0 → 0 ≤ signedOperand s.operand1 →
      (s.params.slotWords : Int) < signedOperand s.operand0 * signedOperand s.operand1 →
      exec i s = .next { s with inFlight := none, err := .capacityExceeded, errSticky := true })

/-- RELEASE leaves an empty buffer with GAIN 1.0, which every coordinate reads as the sentinel. -/
def Obligations.ReleaseEmptiesTheSlot : Prop :=
  ∀ (s : State) (d : Slot), s.slotsPresent → d.val < s.params.nbuf →
    ∃ t, exec (.release d) s = .next t ∧ t.err = .ok ∧ StatusCompleted s t ∧
      t.buf d = { width := 0, height := 0, gain := 0x3F800000#32, samples := [] } ∧
      ∀ x y : Int, (t.buf d).get x y = 0xFFFF#16

/-- GET puts the sign-extended sample at the flat index into RESULT, or 0xFFFFFFFF where the flat index is out of range. -/
def Obligations.GetReadsTheFlatIndex : Prop :=
  ∀ (s : State) (src : Slot), src.val < s.params.nbuf →
    ∃ t, exec (.get src) s = .next t ∧ t.err = .ok ∧ StatusCompleted s t ∧
      ∀ idx : Int, idx = signedOperand s.operand0 + signedOperand s.operand1 * (s.buf src).width →
        (0 ≤ idx → idx < ((s.buf src).width : Int) * (s.buf src).height →
          ∀ v, (s.buf src).samples[idx.toNat]? = some v → t.result = v.signExtend 32) ∧
        (idx < 0 ∨ ((s.buf src).width : Int) * (s.buf src).height ≤ idx → t.result = 0xFFFFFFFF#32)

/-- SET writes bits 15:0 of ARG2 at the flat index if it is in range, and changes no other sample, nor W, H or GAIN. -/
def Obligations.SetWritesTheFlatIndex : Prop :=
  ∀ (s : State) (d : Slot), s.slotsPresent → d.val < s.params.nbuf →
    ∃ t, exec (.set d) s = .next t ∧ t.err = .ok ∧ StatusCompleted s t ∧
      (t.buf d).width = (s.buf d).width ∧ (t.buf d).height = (s.buf d).height ∧ (t.buf d).gain = (s.buf d).gain ∧
      ∀ idx : Int, idx = signedOperand s.operand0 + signedOperand s.operand1 * (s.buf d).width →
        ∀ j : Nat, (t.buf d).samples[j]? =
          if 0 ≤ idx ∧ idx < ((s.buf d).width : Int) * (s.buf d).height ∧ (j : Int) = idx then
            (s.buf d).samples[j]?.map fun _ => s.operand2.setWidth 16
          else (s.buf d).samples[j]?

/-- FILL writes bits 15:0 of ARG0 to every sample and changes neither W, H nor GAIN. -/
def Obligations.FillSetsEverySample : Prop :=
  ∀ (s : State) (d : Slot), s.slotsPresent → d.val < s.params.nbuf →
    ∃ t, exec (.fill d) s = .next t ∧ t.err = .ok ∧ StatusCompleted s t ∧
      (t.buf d).width = (s.buf d).width ∧ (t.buf d).height = (s.buf d).height ∧ (t.buf d).gain = (s.buf d).gain ∧
      (t.buf d).samples.length = (s.buf d).width * (s.buf d).height ∧
      ∀ v ∈ (t.buf d).samples, v = s.operand0.setWidth 16

/-- The laws of R106 (the spec derives them): a GET after a SET at the same coordinates returns the value if the flat index
is in range; if it is not, the SET changed no slot and the GET returns 0xFFFFFFFF. Each command is in flight with the operands
its CMD write latched (R83), or runs through `exec` with none in flight, where that it finds the ARG registers is DEDUCED
(log 9). Between the two the host may have done anything that leaves the buffer slots. -/
def Obligations.GetAfterSet : Prop :=
  ∀ (s t m u : State) (d : Slot) (x y v w : Word), s.slotsPresent → d.val < s.params.nbuf →
    (s.buf d).samples.length = (s.buf d).width * (s.buf d).height →
    s.findsArgs x y v → exec (.set d) s = .next t →
    m.params = t.params → m.bufs = t.bufs → m.findsArgs x y w → exec (.get d) m = .next u →
    ∀ idx : Int, idx = x.toInt + y.toInt * (s.buf d).width →
      (0 ≤ idx ∧ idx < ((s.buf d).width : Int) * (s.buf d).height →
        u.result = (v.setWidth 16).signExtend 32) ∧
      (idx < 0 ∨ ((s.buf d).width : Int) * (s.buf d).height ≤ idx →
        (∀ e, t.buf e = s.buf e) ∧ u.result = 0xFFFFFFFF#32)

/-! ## Kernels and convolution -/

/-- KLOAD copies the buffer's dimensions and samples; its GAIN is the 16-bit value congruent to their exact sum. -/
def Obligations.KloadCopiesTheBuffer : Prop :=
  ∀ (s : State) (k src : Slot), s.slotsPresent → k.val < s.params.nker → src.val < s.params.nbuf →
    (s.buf src).width * (s.buf src).height ≤ s.params.kmaxTaps →
    ∃ t, exec (.kload k src) s = .next t ∧ t.err = .ok ∧ StatusCompleted s t ∧
      (t.ker k).width = (s.buf src).width ∧ (t.ker k).height = (s.buf src).height ∧
      (t.ker k).weights = (s.buf src).samples ∧
      ((t.ker k).gain.toInt - ((s.buf src).samples.map BitVec.toInt).sum) % 65536 = 0

/-- KLOAD of a buffer with more than KMAX_TAPS samples is CapacityExceeded and changes nothing but STATUS. -/
def Obligations.KloadRejectsLargeBuffers : Prop :=
  ∀ (s : State) (k src : Slot), k.val < s.params.nker → src.val < s.params.nbuf →
    s.params.kmaxTaps < (s.buf src).width * (s.buf src).height →
    exec (.kload k src) s = .next { s with inFlight := none, err := .capacityExceeded, errSticky := true }

/-- CONV, pixel by pixel: border 0, interior the sum over the taps of the sample (centre for V = 0, offset for V = 1) times
the weight at (xx+tx, yy+ty), degained and narrowed, untouched 0. The three classes are those of R128. -/
def Obligations.ConvPixelByPixel : Prop :=
  ∀ (s : State) (d src k : Slot) (degain saturate corrected : Bool), s.slotsPresent →
    d.val < s.params.nbuf → src.val < s.params.nbuf → k.val < s.params.nker →
    0 < (s.ker k).width * (s.ker k).height →
    ∃ t, exec (.conv d src k degain saturate corrected) s = .next t ∧ t.err = .ok ∧ StatusCompleted s t ∧
      (t.buf d).width = (s.buf src).width ∧ (t.buf d).height = (s.buf src).height ∧
      (t.buf d).gain = 0x3F800000#32 ∧ (t.buf d).samples.length = (s.buf src).width * (s.buf src).height ∧
      ∀ (W H tx ty x y sum : Int), W = (s.buf src).width → H = (s.buf src).height →
        tx = (s.ker k).width / 2 → ty = (s.ker k).height / 2 → 0 ≤ x → x < W → 0 ≤ y → y < H →
        sum = (∑ yy ∈ Finset.Icc (-ty) ty, ∑ xx ∈ Finset.Icc (-tx) tx,
          (if corrected then (s.buf src).get (x + xx) (y + yy) else (s.buf src).get x y).toInt *
            ((s.ker k).get (xx + tx) (yy + ty)).toInt) →
        (y < ty ∨ y > H - ty ∨ x < tx ∨ x > W - tx → (t.buf d).at (x + y * W).toNat = 0) ∧
        (tx ≤ x ∧ x < W - tx ∧ ty ≤ y ∧ y < H - ty →
          ∀ q : Int, q = (if degain = true ∧ 0 < (s.ker k).gain.toInt then Int.tdiv sum (s.ker k).gain.toInt else sum) →
            (saturate = false → (((t.buf d).at (x + y * W).toNat).toInt - q) % 65536 = 0) ∧
            (saturate = true → ((t.buf d).at (x + y * W).toNat).toInt = max (-32768) (min q 32767))) ∧
        (tx ≤ x ∧ x ≤ W - tx ∧ ty ≤ y ∧ y ≤ H - ty ∧ (x = W - tx ∨ y = H - ty) →
          (t.buf d).at (x + y * W).toNat = 0)

/-- CONV with a kernel without weights: the output has the source's size, zero samples and GAIN 1.0. -/
def Obligations.ConvWithEmptyKernelIsZero : Prop :=
  ∀ (s : State) (d src k : Slot) (degain saturate corrected : Bool), s.slotsPresent →
    d.val < s.params.nbuf → src.val < s.params.nbuf → k.val < s.params.nker →
    (s.ker k).width * (s.ker k).height = 0 →
    ∃ t, exec (.conv d src k degain saturate corrected) s = .next t ∧ t.err = .ok ∧ StatusCompleted s t ∧
      t.buf d = { width := (s.buf src).width, height := (s.buf src).height, gain := 0x3F800000#32,
                  samples := List.replicate ((s.buf src).width * (s.buf src).height) 0 }

/-- The literal variant's sum is the centre sample times the sum over the taps of the weights they read. -/
def Obligations.LiteralSumIsCentreTimesWeights : Prop :=
  ∀ (src : Buffer) (ker : Kernel) (x y tx ty : Int), tx = ker.width / 2 → ty = ker.height / 2 →
    tapSum src ker false x y =
      (src.get x y).toInt *
        ∑ yy ∈ Finset.Icc (-ty) ty, ∑ xx ∈ Finset.Icc (-tx) tx, (ker.get (xx + tx) (yy + ty)).toInt

/-- In the corrected variant every tap of an interior pixel reads a sample of the image, at the row and column of the
offset: no sentinel enters the sum. -/
def Obligations.CorrectedTapsStayInTheImage : Prop :=
  ∀ (src : Buffer) (ker : Kernel) (x y xx yy tx ty : Int), tx = ker.width / 2 → ty = ker.height / 2 →
    src.samples.length = src.width * src.height →
    tx ≤ x → x < src.width - tx → ty ≤ y → y < src.height - ty →
    -tx ≤ xx → xx ≤ tx → -ty ≤ yy → yy ≤ ty →
    0 ≤ x + xx ∧ x + xx < src.width ∧ 0 ≤ y + yy ∧ y + yy < src.height ∧
      some (src.get (x + xx) (y + yy)) = src.samples[(x + xx).toNat + (y + yy).toNat * src.width]?

/-- The closed form of R136 (the spec derives it): with degain, the literal variant and an odd kernel whose weights sum to
1 to 32767, every interior pixel is the source's sample unchanged, wrapped or saturated. -/
def Obligations.LiteralDegainedConvKeepsInterior : Prop :=
  ∀ (s t : State) (d src k : Slot) (saturate : Bool) (x y : Nat), s.slotsPresent →
    d.val < s.params.nbuf → src.val < s.params.nbuf → k.val < s.params.nker →
    (s.buf src).samples.length = (s.buf src).width * (s.buf src).height →
    (s.ker k).wf s.params = true → (s.ker k).width % 2 = 1 → (s.ker k).height % 2 = 1 →
    1 ≤ sampleSum (s.ker k).weights → sampleSum (s.ker k).weights ≤ 32767 →
    (s.ker k).width / 2 ≤ x → x + (s.ker k).width / 2 < (s.buf src).width →
    (s.ker k).height / 2 ≤ y → y + (s.ker k).height / 2 < (s.buf src).height →
    exec (.conv d src k true saturate false) s = .next t →
    (t.buf d).at (x + y * (s.buf src).width) = (s.buf src).at (x + y * (s.buf src).width)

/-- The worked even kernel of R134 (the spec derives it): a 2×2 kernel has nine taps. Five
of them lie past a row's end or below the last row: one reads a weight of the next row, four read the sentinel. -/
def Obligations.EvenKernelReadsSentinelTaps : Prop :=
  ∀ (src : Buffer) (gain w0 w1 w2 w3 : Sample) (x y : Int),
    tapSum src { width := 2, height := 2, gain := gain, weights := [w0, w1, w2, w3] } false x y =
      (src.get x y).toInt * (w0.toInt + w1.toInt + 2 * w2.toInt + w3.toInt - 4)

/-- When the kernel leaves no interior the output is all zero (the spec derives it, R135). -/
def Obligations.NoInteriorMeansZeroOutput : Prop :=
  ∀ (src : Buffer) (ker : Kernel) (degain saturate corrected : Bool) (W H tx ty : Int),
    W = src.width → H = src.height → tx = ker.width / 2 → ty = ker.height / 2 →
    W - tx ≤ tx ∨ H - ty ≤ ty →
    ∀ v ∈ (convolved src ker degain saturate corrected).samples, v = 0

/-! ## Difference -/

/-- DIFF of two buffers of one shape: V = 0 copies `a`, V = 1 gives a - b clamped to -32767 .. 32767; GAIN 1.0. -/
def Obligations.DiffSampleBySample : Prop :=
  ∀ (s : State) (d a b : Slot) (corrected : Bool), s.slotsPresent →
    d.val < s.params.nbuf → a.val < s.params.nbuf → b.val < s.params.nbuf →
    (s.buf a).width = (s.buf b).width → (s.buf a).height = (s.buf b).height →
    ∃ t, exec (.diff d a b corrected) s = .next t ∧ t.err = .ok ∧ StatusCompleted s t ∧
      (t.buf d).width = (s.buf a).width ∧ (t.buf d).height = (s.buf a).height ∧ (t.buf d).gain = 0x3F800000#32 ∧
      (t.buf d).samples.length = (s.buf a).width * (s.buf a).height ∧
      ∀ i, i < (s.buf a).width * (s.buf a).height →
        (corrected = false → (t.buf d).at i = (s.buf a).at i) ∧
        (corrected = true → ((t.buf d).at i).toInt =
          max (-32767) (min (((s.buf a).at i).toInt - ((s.buf b).at i).toInt) 32767))

/-- DIFF and PACK of unequal shapes are DimensionMismatch and change nothing but STATUS, even where `W*H` agrees. -/
def Obligations.UnequalShapesAreRejected : Prop :=
  (∀ (s : State) (d a b : Slot) (corrected : Bool), (Instr.diff d a b corrected).wellFormed s.params = true →
    (s.buf a).width ≠ (s.buf b).width ∨ (s.buf a).height ≠ (s.buf b).height →
    exec (.diff d a b corrected) s =
      .next { s with inFlight := none, err := .dimensionMismatch, errSticky := true }) ∧
  (∀ (s : State) (r g b a p : Slot), (Instr.pack r g b a).wellFormed s.params = true → p ∈ [g, b, a] →
    (s.buf p).width ≠ (s.buf r).width ∨ (s.buf p).height ≠ (s.buf r).height →
    exec (.pack r g b a) s = .next { s with inFlight := none, err := .dimensionMismatch, errSticky := true })

/-- The pseudo-instruction COPY (the spec derives it, R99): the literal DIFF of a buffer with itself leaves a copy with GAIN
1.0; and CLEAR leaves zeros. -/
def Obligations.PseudoInstructionsCopyAndClear : Prop :=
  (∀ (s : State) (d src : Slot), s.slotsPresent → d.val < s.params.nbuf → src.val < s.params.nbuf →
    (s.buf src).samples.length = (s.buf src).width * (s.buf src).height →
    ∃ t, exec (.diff d src src false) s = .next t ∧ t.err = .ok ∧
      t.buf d = { s.buf src with gain := 0x3F800000#32 }) ∧
  (∀ (s : State) (d : Slot), s.slotsPresent → d.val < s.params.nbuf → s.operand0 = 0 →
    ∃ t, exec (.fill d) s = .next t ∧ t.err = .ok ∧ ∀ v ∈ (t.buf d).samples, v = 0)

/-! ## Downscale -/

/-- SCALEDOWN by a scale above 1: each output pixel is the exact sum of its block of source samples divided by scale*scale,
truncated toward zero. No sentinel enters the sum and no narrowing changes the quotient. -/
def Obligations.ScaledownAveragesBlocks : Prop :=
  ∀ (s : State) (d src : Slot) (n : Nat), s.slotsPresent → d.val < s.params.nbuf → src.val < s.params.nbuf →
    (s.buf src).samples.length = (s.buf src).width * (s.buf src).height →
    1 < n → (n : Int) = signedOperand s.operand0 →
    ∃ t, exec (.scaledown d src) s = .next t ∧ t.err = .ok ∧ StatusCompleted s t ∧
      (t.buf d).width = (s.buf src).width / n ∧ (t.buf d).height = (s.buf src).height / n ∧
      (t.buf d).gain = 0x3F800000#32 ∧ (t.buf d).samples.length = (t.buf d).width * (t.buf d).height ∧
      ∀ x y, x < (s.buf src).width / n → y < (s.buf src).height / n →
        ((t.buf d).at (x + y * ((s.buf src).width / n))).toInt =
          Int.tdiv (∑ yy ∈ Finset.range n, ∑ xx ∈ Finset.range n,
            ((s.buf src).at ((x * n + xx) + (y * n + yy) * (s.buf src).width)).toInt) ((n : Int) * n)

/-- SCALEDOWN by a scale of 1 or less is InvalidArgument and changes nothing but STATUS, also for an empty source. -/
def Obligations.ScaledownRejectsSmallScales : Prop :=
  ∀ (s : State) (d src : Slot), d.val < s.params.nbuf → src.val < s.params.nbuf → signedOperand s.operand0 ≤ 1 →
    exec (.scaledown d src) s = .next { s with inFlight := none, err := .invalidArgument, errSticky := true }

/-! ## Pack and unpack -/

/-- PACK of four planes of one shape writes red, green, blue, alpha of pixel i at bytes 4*i to 4*i+3, for i below W*H, and
sets PCOUNT, PK_W and PK_H. The lane value of a sample is 0 if it is negative, else its low 8 bits. -/
def Obligations.PackInterleavesPlanes : Prop :=
  (∀ v : Sample, ((c8 v).toNat : Int) = if v.toInt < 0 then 0 else v.toInt % 256) ∧
  ∀ (s : State) (r g b a : Slot), (Instr.pack r g b a).wellFormed s.params = true →
    (∀ p ∈ [r, g, b, a], (s.buf p).width = (s.buf r).width ∧ (s.buf p).height = (s.buf r).height) →
    ∃ t, exec (.pack r g b a) s = .next t ∧ t.err = .ok ∧ StatusCompleted s t ∧
      t.pcount = BitVec.ofNat 32 ((s.buf r).width * (s.buf r).height) ∧
      t.pkW = BitVec.ofNat 32 (s.buf r).width ∧ t.pkH = BitVec.ofNat 32 (s.buf r).height ∧
      ∀ i, i < (s.buf r).width * (s.buf r).height →
        t.pm.read (4 * i) = some (c8 ((s.buf r).at i)) ∧ t.pm.read (4 * i + 1) = some (c8 ((s.buf g).at i)) ∧
        t.pm.read (4 * i + 2) = some (c8 ((s.buf b).at i)) ∧ t.pm.read (4 * i + 3) = some (c8 ((s.buf a).at i))

/-- UNPACK of admitted dimensions completes, whatever packed memory holds. Each destination holds the plane of the last
channel that names it, w × h with GAIN 1.0, and each sample whose byte is defined is that byte zero-extended. (A sample
whose byte is undefined is a free draw, log 4, of which nothing is said but what holds of every byte: that it is at most
255. That the command completes over undefined bytes is the model's choice, log 4: the spec allows a fault too.) -/
def Obligations.UnpackSplitsChannels : Prop :=
  ∀ (s : State) (r g b a : Slot), s.slotsPresent → (Instr.unpack r g b a).wellFormed s.params = true →
    0 ≤ signedOperand s.operand0 → 0 ≤ signedOperand s.operand1 →
    signedOperand s.operand0 * signedOperand s.operand1 ≤ s.params.slotWords →
    ∃ t, exec (.unpack r g b a) s = .next t ∧ t.err = .ok ∧ StatusCompleted s t ∧
      ∀ (d : Slot) (j : Nat),
        (d = r ∧ d ∉ [g, b, a] ∧ j = 0) ∨ (d = g ∧ d ∉ [b, a] ∧ j = 1) ∨ (d = b ∧ d ≠ a ∧ j = 2) ∨ (d = a ∧ j = 3) →
        ((t.buf d).width : Int) = signedOperand s.operand0 ∧ ((t.buf d).height : Int) = signedOperand s.operand1 ∧
        (t.buf d).gain = 0x3F800000#32 ∧ (t.buf d).samples.length = (t.buf d).width * (t.buf d).height ∧
        ∀ i, i < (t.buf d).width * (t.buf d).height → ((t.buf d).at i).toNat ≤ 255 ∧
          ∀ v, s.pm.read (4 * i + j) = some v → ((t.buf d).at i).toNat = v.toNat

/-- PACK and then UNPACK of the same dimensions into four different slots gives the planes back where their samples are in
0 .. 255, and 0 where they are negative (the spec derives it, R170). Each command is in flight with the operands its CMD write
latched (R83), or runs through `exec` with none in flight, where that UNPACK finds the ARG registers is DEDUCED (log 9).
Between the two the host may have done anything that leaves packed memory and the number of slots. -/
def Obligations.PackThenUnpackRoundTrip : Prop :=
  ∀ (s t m u : State) (r g b a r' g' b' a' : Slot) (w : Word), s.Inv →
    (Instr.pack r g b a).wellFormed s.params = true → (Instr.unpack r' g' b' a').wellFormed s.params = true →
    (∀ p ∈ [r, g, b, a], (s.buf p).width = (s.buf r).width ∧ (s.buf p).height = (s.buf r).height) →
    [r', g', b', a'].Nodup →
    exec (.pack r g b a) s = .next t →
    m.params = t.params → m.slotsPresent → m.pm = t.pm →
    m.findsArgs (BitVec.ofNat 32 (s.buf r).width) (BitVec.ofNat 32 (s.buf r).height) w →
    exec (.unpack r' g' b' a') m = .next u →
    u.err = .ok ∧
    ∀ q ∈ [(r, r'), (g, g'), (b, b'), (a, a')],
      (u.buf q.2).width = (s.buf q.1).width ∧ (u.buf q.2).height = (s.buf q.1).height ∧
      ∀ i, i < (s.buf r).width * (s.buf r).height →
        (0 ≤ ((s.buf q.1).at i).toInt ∧ ((s.buf q.1).at i).toInt ≤ 255 → (u.buf q.2).at i = (s.buf q.1).at i) ∧
        (((s.buf q.1).at i).toInt < 0 → (u.buf q.2).at i = 0)

/-! ## Frames -/

/-- What CREATE, RELEASE, SET, FILL, CONV, DIFF and SCALEDOWN leave unchanged: everything but the destination slot and
STATUS. -/
def Obligations.BufferCommandsFrame : Prop :=
  ∀ (s t : State) (i : Instr) (d : Slot),
    (i = .create d ∨ i = .release d ∨ i = .set d ∨ i = .fill d ∨ (∃ src k dg sat cor, i = .conv d src k dg sat cor) ∨
      (∃ a b v, i = .diff d a b v) ∨ ∃ src, i = .scaledown d src) →
    exec i s = .next t →
    SameInterface s t ∧ SameResult s t ∧ SamePackCounts s t ∧ SamePackedFrom 0 s t ∧ SameKersExcept [] s t ∧
      SameDraws s t ∧ SameBufsExcept [d] s t ∧ StatusCompleted s t

/-- What NOP, GET and KLOAD leave unchanged: NOP all but STATUS, GET all but RESULT and STATUS, KLOAD all but the kernel slot
and STATUS. -/
def Obligations.NopGetKloadFrame : Prop :=
  (∀ (s t : State), exec .nop s = .next t →
    SameInterface s t ∧ SameResult s t ∧ SamePackCounts s t ∧ SamePackedFrom 0 s t ∧ SameKersExcept [] s t ∧
      SameDraws s t ∧ SameBufsExcept [] s t ∧ StatusCompleted s t) ∧
  (∀ (s t : State) (src : Slot), exec (.get src) s = .next t →
    SameInterface s t ∧ SamePackCounts s t ∧ SamePackedFrom 0 s t ∧ SameKersExcept [] s t ∧
      SameDraws s t ∧ SameBufsExcept [] s t ∧ StatusCompleted s t) ∧
  (∀ (s t : State) (k src : Slot), exec (.kload k src) s = .next t →
    SameInterface s t ∧ SameResult s t ∧ SamePackCounts s t ∧ SamePackedFrom 0 s t ∧ SameKersExcept [k] s t ∧
      SameDraws s t ∧ SameBufsExcept [] s t ∧ StatusCompleted s t)

/-- What PACK leaves unchanged: every slot, RESULT, and every byte of packed memory from 4*W*H on (all of it where PACK
fails). -/
def Obligations.PackFrame : Prop :=
  ∀ (s t : State) (r g b a : Slot), exec (.pack r g b a) s = .next t →
    SameInterface s t ∧ SameResult s t ∧ SameKersExcept [] s t ∧ SameDraws s t ∧ SameBufsExcept [] s t ∧
      StatusCompleted s t ∧ SamePackedFrom (4 * ((s.buf r).width * (s.buf r).height)) s t ∧
      (t.err ≠ .ok → SamePackedFrom 0 s t ∧ SamePackCounts s t)

/-- What UNPACK leaves unchanged: packed memory, the kernels, RESULT, PCOUNT, PK_W, PK_H and every slot it does not name.
The draw counter, the model's own (log 4), may advance where a byte read is undefined, and only there. -/
def Obligations.UnpackFrame : Prop :=
  ∀ (s t : State) (r g b a : Slot), exec (.unpack r g b a) s = .next t →
    SameInterface s t ∧ SameResult s t ∧ SamePackCounts s t ∧ SamePackedFrom 0 s t ∧ SameKersExcept [] s t ∧
      SameBufsExcept [r, g, b, a] s t ∧ StatusCompleted s t ∧
      ((∀ k : Nat, (k : Int) < 4 * (signedOperand s.operand0 * signedOperand s.operand1) →
        (s.pm.read k).isSome = true) → SameDraws s t)

/-! ## What no command reads -/

/-- No command reads a buffer's GAIN or STATUS: from two states that differ in GAINs at most, a command leaves two such
states; and with another STATUS before it, it leaves the same state but for ERR_STICKY. -/
def Obligations.NoCommandReadsGainOrStatus : Prop :=
  (∀ (i : Instr) (s₁ s₂ t₁ t₂ : State), s₁.withoutGains = s₂.withoutGains →
    exec i s₁ = .next t₁ → exec i s₂ = .next t₂ → t₁.withoutGains = t₂.withoutGains) ∧
  (∀ (i : Instr) (s t : State) (e : ErrorCode) (sticky : Bool), exec i s = .next t →
    exec i { s with err := e, errSticky := sticky } =
      .next { t with errSticky := sticky || decide (t.err ≠ .ok) })

/-- The operands a command finds, and that it reads no other. With a command in flight they are the values its CMD write
latched, not the ARG registers: `exec` answers what it answers where the ARG registers hold the latched values, but for these
registers (R83, R205). A latched value that R91 does not name for the command changes nothing. With no command in flight,
where `step` never calls `exec`, the operands are the ARG registers (DEDUCED, log 9), and those that R91 does not name are not
read either: with other values there, the command leaves the same state but for them. -/
def Obligations.CommandsReadOnlyTheirArgs : Prop :=
  (∀ (s : State) (c : InFlight), s.inFlight = some c →
    s.operand0 = c.arg0 ∧ s.operand1 = c.arg1 ∧ s.operand2 = c.arg2) ∧
  (∀ s : State, s.inFlight = none → s.operand0 = s.arg0 ∧ s.operand1 = s.arg1 ∧ s.operand2 = s.arg2) ∧
  (∀ (i : Instr) (s t : State) (c : InFlight), s.inFlight = some c →
    exec i (s.withArgs c.arg0 c.arg1 c.arg2) = .next t → exec i s = .next (t.withArgs s.arg0 s.arg1 s.arg2)) ∧
  (∀ (i : Instr) (s t : State) (c c' : InFlight),
    (1 ≤ argCount i → c.arg0 = c'.arg0) → (2 ≤ argCount i → c.arg1 = c'.arg1) → (3 ≤ argCount i → c.arg2 = c'.arg2) →
    exec i { s with inFlight := some c } = .next t → exec i { s with inFlight := some c' } = .next t) ∧
  (∀ (i : Instr) (s t : State) (a0 a1 a2 b0 b1 b2 : Word),
    (1 ≤ argCount i → a0 = b0) → (2 ≤ argCount i → a1 = b1) → (3 ≤ argCount i → a2 = b2) →
    exec i (s.withArgs a0 a1 a2) = .next t → exec i (s.withArgs b0 b1 b2) = .next (t.withArgs b0 b1 b2))

/-! ## STATUS and the register map -/

/-- The layout of STATUS: BUSY, ERR_STICKY, two reserved bits 0, the error code, the rest 0; and of a write to it, bit 1
clears ERR_STICKY and every other bit is ignored. -/
def Obligations.StatusLayout : Prop :=
  ∀ s : State, s.status.getLsbD 0 = s.inFlight.isSome ∧ s.status.getLsbD 1 = s.errSticky ∧
    s.status.extractLsb' 2 2 = 0 ∧ s.status.extractLsb' 8 24 = 0 ∧
    (s.status.extractLsb' 4 4).toNat = (match s.err with
      | .ok => 0
      | .invalidDimension => 1
      | .dimensionMismatch => 2
      | .invalidArgument => 3
      | .capacityExceeded => 4
      | .illegalCommand => 5) ∧
    ∀ v : Word, s.writeReg 0x010 v = if v.getLsbD 1 = true then { s with errSticky := false } else s

/-- A 32-bit read of each control register returns it, and a reserved offset outside the descriptor banks reads 0. -/
def Obligations.ControlRegistersRead : Prop :=
  ∀ s : State, s.readReg 0x000 = s.cmd ∧ s.readReg 0x004 = s.arg0 ∧ s.readReg 0x008 = s.arg1 ∧
    s.readReg 0x00C = s.arg2 ∧ s.readReg 0x010 = s.status ∧ s.readReg 0x014 = s.result ∧
    s.readReg 0x018 = s.pcount ∧ s.readReg 0x01C = s.pkW ∧ s.readReg 0x020 = s.pkH ∧
    ∀ off : Nat, (0x024 ≤ off ∧ off < 0x100) ∨ 0x300 ≤ off → s.readReg off = 0

/-- The buffer descriptors: W, H and GAIN of each slot the implementation has, 0 at 0xC and for every other slot; a write of
BUF_GAIN replaces GAIN and nothing else, and no other write there changes anything. -/
def Obligations.BufferDescriptors : Prop :=
  ∀ (s : State) (d : Slot) (v : Word),
    (d.val < s.params.nbuf →
      s.readReg (0x100 + 0x10 * d.val) = BitVec.ofNat 32 (s.buf d).width ∧
      s.readReg (0x100 + 0x10 * d.val + 0x4) = BitVec.ofNat 32 (s.buf d).height ∧
      s.readReg (0x100 + 0x10 * d.val + 0x8) = (s.buf d).gain ∧
      s.readReg (0x100 + 0x10 * d.val + 0xC) = 0 ∧
      s.writeReg (0x100 + 0x10 * d.val + 0x8) v = { s with bufs := s.bufs.set d.val { s.buf d with gain := v } } ∧
      ∀ f, f ∈ [0x0, 0x4, 0xC] → s.writeReg (0x100 + 0x10 * d.val + f) v = s) ∧
    (s.params.nbuf ≤ d.val → ∀ f, f ∈ [0x0, 0x4, 0x8, 0xC] →
      s.readReg (0x100 + 0x10 * d.val + f) = 0 ∧ s.writeReg (0x100 + 0x10 * d.val + f) v = s)

/-- The kernel descriptors: W, H and the sign-extended GAIN of each kernel slot the implementation has, 0 elsewhere; no
write changes anything there. -/
def Obligations.KernelDescriptors : Prop :=
  ∀ (s : State) (k : Slot) (v : Word),
    (k.val < s.params.nker →
      s.readReg (0x200 + 0x10 * k.val) = BitVec.ofNat 32 (s.ker k).width ∧
      s.readReg (0x200 + 0x10 * k.val + 0x4) = BitVec.ofNat 32 (s.ker k).height ∧
      (s.readReg (0x200 + 0x10 * k.val + 0x8)).toInt = (s.ker k).gain.toInt ∧
      s.readReg (0x200 + 0x10 * k.val + 0xC) = 0) ∧
    (s.params.nker ≤ k.val → ∀ f, f ∈ [0x0, 0x4, 0x8, 0xC] → s.readReg (0x200 + 0x10 * k.val + f) = 0) ∧
    ∀ off, 0x200 ≤ off → off < 0x300 → s.writeReg off v = s

/-- The register writes with an effect on the spot: STATUS clears ERR_STICKY by bit 1, an ARG register takes the value, each
changing nothing else. Beside them only CMD and BUF_GAIN of the slots there are have an effect: every other register is
read-only or reserved, and the write changes nothing. -/
def Obligations.RegisterWrites : Prop :=
  ∀ (s : State) (v : Word),
    (v.getLsbD 1 = true → s.writeReg 0x010 v = { s with errSticky := false }) ∧
    (v.getLsbD 1 = false → s.writeReg 0x010 v = s) ∧
    s.writeReg 0x004 v = { s with arg0 := v } ∧ s.writeReg 0x008 v = { s with arg1 := v } ∧
    s.writeReg 0x00C v = { s with arg2 := v } ∧
    ∀ off : Nat, off ∉ [0x000, 0x004, 0x008, 0x00C, 0x010] →
      (∀ d : Slot, d.val < s.params.nbuf → off ≠ 0x100 + 0x10 * d.val + 0x8) → s.writeReg off v = s

/-! ## Host accesses -/

/-- A host write of CMD with no command in flight issues exactly one command: BUSY is 1, CMD holds the word, and the word and
the ARG registers' current values are latched. Nothing else of the block changes. And no other move of the host starts a
command. (The slack the command gets is the model's choice, log 1, and is not stated.) -/
def Obligations.CmdWriteIssuesTheCommand : Prop :=
  (∀ (s : State) (w : Word) (rest : List HostMove), s.inFlight = none → s.resetAsserted = false →
    s.hostQueue = wr s.params 0x000 w :: rest →
    ∃ t c, step s = .next t ∧ t.inFlight = some c ∧ t.busy = true ∧ t.cmd = w ∧
      c.word = w ∧ c.arg0 = s.arg0 ∧ c.arg1 = s.arg1 ∧ c.arg2 = s.arg2 ∧ t.hostQueue = rest ∧
      t.bufs = s.bufs ∧ t.kers = s.kers ∧ t.pm = s.pm ∧ t.arg0 = s.arg0 ∧ t.arg1 = s.arg1 ∧ t.arg2 = s.arg2 ∧
      t.err = s.err ∧ t.errSticky = s.errSticky ∧ t.result = s.result ∧ t.pcount = s.pcount ∧ t.pkW = s.pkW ∧
      t.pkH = s.pkH) ∧
  (∀ s t : State, s.inFlight = none → step s = .next t → t.inFlight ≠ none →
    ∃ w rest, s.hostQueue = wr s.params 0x000 w :: rest)

/-- While a command is in flight a host move that is not a STATUS read or reset is held: the step runs the command and the
move stays in the queue. A STATUS read that comes first is performed at once and returns BUSY = 1 and the previous
command's ERR, and the command stays in flight. (How many come first is data of the state, log 1;
that a reset queued behind a held move waits for it too is the model's choice, log 18.) -/
def Obligations.AccessesAreHeldWhileBusy : Prop :=
  (∀ (s : State) (c : InFlight) (m : HostMove) (rest : List HostMove), s.inFlight = some c →
    s.hostQueue = m :: rest → m.lands s.params = false →
    ∃ t, step s = .next t ∧ t.inFlight = none ∧ t.hostQueue = m :: rest ∧ t.replies = s.replies) ∧
  (∀ (s : State) (c : InFlight) (rest : List HostMove), s.inFlight = some c → s.resetAsserted = false →
    0 < c.slack → s.hostQueue = rd s.params 0x010 :: rest →
    ∃ t v, step s = .next t ∧ t.replies = .data v :: s.replies ∧ v = s.status ∧ v.getLsbD 0 = true ∧
      t.inFlight = some { c with slack := c.slack - 1 } ∧ t.hostQueue = rest ∧ t.bufs = s.bufs ∧ t.kers = s.kers ∧
      t.pm = s.pm ∧ t.cmd = s.cmd ∧ t.result = s.result)

/-- A legal write of n bytes in the packed window (8 bits at any offset, 16 at even ones, 32 at multiples of 4) defines exactly
those n bytes, least significant first, and a read of the same size there returns the value's low n bytes. Above the window,
from PBASE + 4*SLOT_WORDS on, a write is ignored and a read gives 0. That a narrow write carries its value in the low bits of
a word and a narrow read's data is zero-extended is the model's choice (log 16). -/
def Obligations.PackedWindowIsLittleEndian : Prop :=
  (∀ (s : State) (size : AccessSize) (n off : Nat) (v : Word),
    (size, n) ∈ [(AccessSize.byte, 1), (.half, 2), (.word, 4)] → off % n = 0 → 0x100000 ≤ off →
    off < 0x100000 + 4 * s.params.slotWords →
    (∀ a, (s.afterWrite size off v).pm.read a =
      if off - 0x100000 ≤ a ∧ a < off - 0x100000 + n then
        some (v.extractLsb' (8 * (a - (off - 0x100000))) 8) else s.pm.read a) ∧
    ((s.afterWrite size off v).readData size off).toNat = v.toNat % 2 ^ (8 * n) ∧
    (s.afterWrite size off v).afterRead size off = s.afterWrite size off v ∧
    { s.afterWrite size off v with pm := s.pm } = s) ∧
  (∀ (s : State) (size : AccessSize) (off : Nat) (v : Word), 0x100000 + 4 * s.params.slotWords ≤ off →
    s.afterWrite size off v = s ∧ s.readData size off = 0 ∧ s.afterRead size off = s)

/-- With no command in flight and reset released, a step performs the host's next access wherever it lies in the 2 MiB
aperture (R59). It is legal if it is 32 bits wide at a multiple of 4 below 0x100000 (R69), or from there on of any width at its
natural alignment (R70). A legal read has no side effect on the block: it changes nothing but the reply the host gets and,
where it covers an undefined byte of packed memory, the model's draw counter (log 4); it returns the register, the packed
bytes that are defined, or 0 above the window. A legal write has the effect of `afterWrite`, in the register region that of
`writeReg`, and a written reply. The narrow forms of a read's data and a write's value are the model's choice (log 16). -/
def Obligations.LegalAccessesArePerformed : Prop :=
  (∀ (s : State) (a : Access) (rest : List HostMove), s.inFlight = none → s.resetAsserted = false →
    s.hostQueue = .access a :: rest → s.params.apertureBase ≤ a.addr → a.addr < s.params.apertureBase + 0x200000 →
    step s = .next (({ s with hostQueue := rest } : State).access a)) ∧
  (∀ (s : State) (a : Access) (n off : Nat), (a.size, n) ∈ [(AccessSize.byte, 1), (.half, 2), (.word, 4)] →
    a.addr = s.params.apertureBase + off → off % n = 0 → (off < 0x100000 → a.size = .word) →
    (a.kind = .read → ∃ (v : Word) (k : Nat), s.access a = { s with replies := .data v :: s.replies, draws := k } ∧
      (off < 0x100000 → k = s.draws ∧ v = s.readReg off) ∧
      (0x100000 ≤ off → off < 0x100000 + 4 * s.params.slotWords →
        v.toNat < 2 ^ (8 * n) ∧
        (∀ j b, j < n → s.pm.read (off - 0x100000 + j) = some b → v.extractLsb' (8 * j) 8 = b) ∧
        ((∀ j, j < n → (s.pm.read (off - 0x100000 + j)).isSome = true) → k = s.draws)) ∧
      (0x100000 + 4 * s.params.slotWords ≤ off → k = s.draws ∧ v = 0)) ∧
    ∀ v, a.kind = .write v →
      s.access a = { s.afterWrite a.size off v with replies := .written :: s.replies } ∧
      (off < 0x100000 → s.afterWrite a.size off v = s.writeReg off v))

/-- An access of an illegal width or alignment is refused: the host gets a bus error, recorded as its fault, and no state of
the block changes. That the host then goes on is the model's choice (log 5). -/
def Obligations.IllegalAccessesAreRefused : Prop :=
  ∀ (s : State) (a : Access) (rest : List HostMove) (off : Nat), s.inFlight = none → s.resetAsserted = false →
    s.hostQueue = .access a :: rest → a.addr = s.params.apertureBase + off → off < 0x200000 →
    (off < 0x100000 ∧ (a.size ≠ .word ∨ off % 4 ≠ 0)) ∨
      (0x100000 ≤ off ∧ ((a.size = .half ∧ off % 2 ≠ 0) ∨ (a.size = .word ∧ off % 4 ≠ 0))) →
    step s = .next { s with hostQueue := rest, replies := .busError :: s.replies, hostFault := true }

/-- Where the model stops: an access outside the 2 MiB aperture is not the block's (log 6), and an access while reset is
asserted has no defined result (R202, I7). -/
def Obligations.StepStopsOnlyOnForeignOrResetAccess : Prop :=
  (∀ (s : State) (f : Fault), step s = .fault f →
    ∃ a rest, s.hostQueue = .access a :: rest ∧
      (a.addr < s.params.apertureBase ∨ s.params.apertureBase + 0x200000 ≤ a.addr)) ∧
  (∀ (s : State) (r : Refusal), step s = .refused r →
    r = .accessDuringReset ∧ s.resetAsserted = true ∧ ∃ a rest, s.hostQueue = .access a :: rest)

/-! ## Invariants and whole-machine rules -/

/-- Every step keeps the invariant, from every state that meets it. -/
def Obligations.StepKeepsInvariant : Prop :=
  ∀ s s' : State, s.Inv → step s = .next s' → s'.Inv

/-- Every step keeps the parameters, which stand in the state by the model's choice (log 2), and the slots that are there. -/
def Obligations.StepKeepsSlotsPresent : Prop :=
  ∀ s s' : State, step s = .next s' → s'.params = s.params ∧ (s.slotsPresent → s'.slotsPresent)

/-- Only KLOAD changes a kernel slot, only GET changes RESULT, and only PACK changes PCOUNT, PK_W or PK_H, unless the step
asserts reset (the move is at the head of the queue and lands): no other command does, and no access of the host. -/
def Obligations.OnlyOneCommandWritesEach : Prop :=
  ∀ s s' : State, step s = .next s' →
    ((∃ rest, s.hostQueue = .assertReset :: rest) ∧
      (s.inFlight = none ∨ ∃ c, s.inFlight = some c ∧ s.hostLands c = true)) ∨
    ((s'.kers ≠ s.kers → ∃ c k src, s.inFlight = some c ∧ decode s.params c.word = .ok (.kload k src)) ∧
     (s'.result ≠ s.result → ∃ c src, s.inFlight = some c ∧ decode s.params c.word = .ok (.get src)) ∧
     (s'.pcount ≠ s.pcount ∨ s'.pkW ≠ s.pkW ∨ s'.pkH ≠ s.pkH →
       ∃ c r g b a, s.inFlight = some c ∧ decode s.params c.word = .ok (.pack r g b a)))

/-- No access of the host changes a sample, a width or a height of a buffer: while no command is in flight and the host does
not assert reset, a step changes GAINs of buffers at most. -/
def Obligations.HostCannotWriteSamples : Prop :=
  ∀ s s' : State, s.inFlight = none → step s = .next s' → (∀ rest, s.hostQueue ≠ .assertReset :: rest) →
    s'.bufs.map (fun b => (b.width, b.height, b.samples)) = s.bufs.map (fun b => (b.width, b.height, b.samples)) ∧
    s'.kers = s.kers
end

