-- ==== Sys2Proof/Laws/Arith.lean ====
section
/-! SUPPORT. What the arithmetic primitives do: their ranges and when narrowing changes nothing. -/

namespace Sys2Proof.Machine

/-- `tdiv` of R11 is Lean's truncating division, for a positive divisor. -/
theorem tdiv_eq_int_tdiv (a : Int) {b : Int} (hb : 0 < b) : tdiv a b = Int.tdiv a b := by
  obtain ⟨n, rfl⟩ := Int.eq_ofNat_of_zero_le hb.le
  cases a with
  | ofNat m =>
    rcases Nat.eq_zero_or_pos m with rfl | hm
    · simp [tdiv]
    · have h : (Int.ofNat m).sign = 1 := Int.sign_eq_one_of_pos (by simpa using hm)
      unfold tdiv
      rw [h, one_mul]
      simp
  | negSucc m => simp [tdiv, Int.tdiv]

theorem le_clamp {v lo hi : Int} (h : lo ≤ hi) : lo ≤ clamp v lo hi := by
  unfold clamp; split <;> (try split) <;> omega

theorem clamp_le {v lo hi : Int} (h : lo ≤ hi) : clamp v lo hi ≤ hi := by
  unfold clamp; split <;> (try split) <;> omega

theorem clamp_eq_self {v lo hi : Int} (h₁ : lo ≤ v) (h₂ : v ≤ hi) : clamp v lo hi = v := by
  unfold clamp; split <;> (try split) <;> omega

/-- A value in the 16-bit range survives the narrowing. -/
theorem toInt_ofInt16 {v : Int} (h₁ : -32768 ≤ v) (h₂ : v ≤ 32767) : (BitVec.ofInt 16 v).toInt = v := by
  rw [BitVec.toInt_ofInt]
  simp only [Int.bmod]
  split <;> omega

theorem toInt_wrap16 {v : Int} (h₁ : -32768 ≤ v) (h₂ : v ≤ 32767) : (wrap16 v).toInt = v := toInt_ofInt16 h₁ h₂

theorem toInt_sat16 (v : Int) : (sat16 v).toInt = clamp v (-32768) 32767 :=
  toInt_ofInt16 (le_clamp (by decide)) (clamp_le (by decide))

/-- Narrowing a sample's own value gives the sample back. -/
@[simp] theorem ofInt16_toInt (v : Sample) : BitVec.ofInt 16 v.toInt = v := BitVec.ofInt_toInt

theorem sample_range (v : Sample) : -32768 ≤ v.toInt ∧ v.toInt ≤ 32767 := by
  have h₁ := BitVec.le_toInt v
  have h₂ := BitVec.toInt_lt (x := v)
  omega

/-- The truncated quotient lies between the bounds of the dividend's average. -/
theorem tdiv_between {a b lo hi : Int} (hb : 0 < b) (h₁ : lo * b ≤ a) (h₂ : a ≤ hi * b) :
    lo ≤ tdiv a b ∧ tdiv a b ≤ hi := by
  rw [tdiv_eq_int_tdiv a hb]
  rcases le_or_gt 0 a with ha | ha
  · rw [Int.tdiv_eq_ediv_of_nonneg ha]
    exact ⟨Int.le_ediv_of_mul_le hb h₁, Int.ediv_le_of_le_mul hb h₂⟩
  · have hn : Int.tdiv a b = -((-a) / b) := by
      rw [← Int.tdiv_eq_ediv_of_nonneg (by omega), Int.neg_tdiv, neg_neg]
    rw [hn]
    have hu : (-a) / b ≤ -lo := Int.ediv_le_of_le_mul hb (by rw [neg_mul]; omega)
    have hl : -hi ≤ (-a) / b := Int.le_ediv_of_mul_le hb (by rw [neg_mul]; omega)
    omega

theorem sumRange_zero (f : Nat → Int) : sumRange 0 f = 0 := rfl

theorem sumRange_succ (n : Nat) (f : Nat → Int) : sumRange (n + 1) f = sumRange n f + f n := by
  simp [sumRange, List.range_succ]

theorem sumRange_congr {n : Nat} {f g : Nat → Int} (h : ∀ i, i < n → f i = g i) :
    sumRange n f = sumRange n g := by
  unfold sumRange
  congr 1
  exact List.map_congr_left fun i hi => h i (List.mem_range.mp hi)

theorem sumRange_mul_left (n : Nat) (c : Int) (f : Nat → Int) :
    (sumRange n fun i => c * f i) = c * sumRange n f := by
  induction n with
  | zero => simp [sumRange_zero]
  | succ n ih => rw [sumRange_succ, sumRange_succ, ih]; ring

/-- A sum of `n` terms within bounds is within `n` times those bounds. -/
theorem sumRange_between {n : Nat} {f : Nat → Int} {lo hi : Int} (h : ∀ i, i < n → lo ≤ f i ∧ f i ≤ hi) :
    lo * n ≤ sumRange n f ∧ sumRange n f ≤ hi * n := by
  induction n with
  | zero => simp [sumRange_zero]
  | succ n ih =>
    have h₁ := ih fun i hi => h i (by omega)
    have h₂ := h n (by omega)
    rw [sumRange_succ]
    push_cast
    constructor <;> nlinarith

/-- The model's sums are the library's (R8). -/
theorem sumRange_eq_sum (n : Nat) (f : Nat → Int) : sumRange n f = ∑ i ∈ Finset.range n, f i := by
  induction n with
  | zero => rfl
  | succ n ih => rw [sumRange_succ, Finset.sum_range_succ, ih]

/-- A sum from `-t` to `t` counted from 0, as the taps of a convolution are (41_convolution.md R125). -/
theorem sum_Icc_shift (t : Nat) (f : Int → Int) :
    (∑ z ∈ Finset.Icc (-(t : Int)) t, f z) = sumRange (2 * t + 1) fun i => f ((i : Int) - t) := by
  rw [sumRange_eq_sum]
  refine (Finset.sum_bij (fun (i : Nat) _ => ((i : Int) - t)) ?_ ?_ ?_ ?_).symm
  · intro i hi; simp at hi ⊢; omega
  · intro i _ j _ h; omega
  · intro z hz
    simp at hz
    exact ⟨(z + t).toNat, by simp; omega, by omega⟩
  · intro i _; rfl

end Sys2Proof.Machine
end

