-- ==== Sys2Proof/Laws/Buffer.lean ====
section
/-! SUPPORT. What the buffer and kernel operations do, sample by sample, and that they keep the buffer invariant. -/

namespace Sys2Proof.Machine

/-! ## Flat indices -/

theorem flatIndex_natCast (w x y : Nat) : flatIndex w x y = ((x + y * w : Nat) : Int) := by
  simp [flatIndex]

theorem inGrid_iff {w h : Nat} {idx : Int} : inGrid w h idx = true ↔ 0 ≤ idx ∧ idx < (w : Int) * h := by
  simp [inGrid]

/-- The flat index of a pixel of the grid lies below `W*H`. -/
theorem index_lt {w h x y : Nat} (hx : x < w) (hy : y < h) : x + y * w < w * h := by
  have : (y + 1) * w ≤ h * w := Nat.mul_le_mul_right w hy
  rw [Nat.add_mul] at this
  rw [Nat.mul_comm w h]
  omega

theorem index_mod {w x : Nat} (y : Nat) (hx : x < w) : (x + y * w) % w = x := by
  rw [Nat.add_mul_mod_self_right, Nat.mod_eq_of_lt hx]

theorem index_div {w x : Nat} (y : Nat) (hx : x < w) : (x + y * w) / w = y := by
  rw [Nat.add_mul_div_right x y (by omega), Nat.div_eq_of_lt hx, Nat.zero_add]

/-- A position below `W*H` is the flat index of the pixel (i mod W, i div W) of the grid. -/
theorem index_split {w h i : Nat} (hi : i < w * h) : i % w < w ∧ i / w < h ∧ i = i % w + i / w * w := by
  have hw : 0 < w := Nat.pos_of_ne_zero fun h0 => by simp [h0] at hi
  refine ⟨Nat.mod_lt _ hw, Nat.div_lt_of_lt_mul hi, ?_⟩
  rw [Nat.mul_comm]
  exact (Nat.mod_add_div i w).symm

/-! ## Get and Set -/

/-- The bounds test, spelled out on the flat index. -/
theorem inGrid_flatIndex_iff {w h : Nat} {x y : Int} :
    inGrid w h (flatIndex w x y) = true ↔ 0 ≤ x + y * w ∧ x + y * w < (w : Int) * h := by
  rw [inGrid_iff, flatIndex]

theorem Buffer.get_eq (b : Buffer) (x y : Int) :
    b.get x y = if 0 ≤ x + y * b.width ∧ x + y * b.width < (b.width : Int) * b.height
      then b.samples.getD (x + y * b.width).toNat sentinel else sentinel := by
  by_cases h : 0 ≤ x + y * b.width ∧ x + y * b.width < (b.width : Int) * b.height
  · rw [if_pos h, Buffer.get, if_pos (inGrid_flatIndex_iff.mpr h), flatIndex]
  · rw [if_neg h, Buffer.get, if_neg (mt inGrid_flatIndex_iff.mp h)]

/-- In the grid, Get reads the sample at the flat index. -/
theorem Buffer.get_grid (b : Buffer) {x y : Nat} (hx : x < b.width) (hy : y < b.height) :
    b.get x y = b.samples.getD (x + y * b.width) sentinel := by
  have hlt := index_lt hx hy
  have hg : inGrid b.width b.height (flatIndex b.width x y) = true := by
    rw [inGrid_iff, flatIndex_natCast]
    exact ⟨Int.natCast_nonneg _, by exact_mod_cast hlt⟩
  rw [Buffer.get, if_pos hg, flatIndex_natCast, Int.toNat_natCast]

/-- On a buffer with all its samples, the default of a bounded read does not matter. -/
theorem Buffer.getD_eq_at (b : Buffer) {i : Nat} (hi : i < b.samples.length) (v : Sample) :
    b.samples.getD i v = b.at i := by
  simp [Buffer.at, List.getD_eq_getElem?_getD, List.getElem?_eq_getElem hi]

@[simp] theorem Buffer.set_width (b : Buffer) (x y : Int) (v : Sample) : (b.set x y v).width = b.width := by
  unfold Buffer.set; split <;> rfl

@[simp] theorem Buffer.set_height (b : Buffer) (x y : Int) (v : Sample) : (b.set x y v).height = b.height := by
  unfold Buffer.set; split <;> rfl

@[simp] theorem Buffer.set_gain (b : Buffer) (x y : Int) (v : Sample) : (b.set x y v).gain = b.gain := by
  unfold Buffer.set; split <;> rfl

@[simp] theorem Buffer.set_length (b : Buffer) (x y : Int) (v : Sample) :
    (b.set x y v).samples.length = b.samples.length := by
  unfold Buffer.set; split <;> simp

/-- What Set can do to one sample. -/
theorem Buffer.set_at (b : Buffer) (x y : Int) (v : Sample) (i : Nat) :
    (b.set x y v).at i =
      if 0 ≤ x + y * b.width ∧ x + y * b.width < (b.width : Int) * b.height ∧ (i : Int) = x + y * b.width ∧
        i < b.samples.length then v else b.at i := by
  by_cases h : 0 ≤ x + y * b.width ∧ x + y * b.width < (b.width : Int) * b.height
  · rw [Buffer.set, if_pos (inGrid_flatIndex_iff.mpr h)]
    simp only [Buffer.at, List.getD_eq_getElem?_getD, List.getElem?_set, flatIndex]
    by_cases he : (i : Int) = x + y * b.width
    · have hi : (x + y * b.width).toNat = i := by omega
      rw [if_pos hi]
      by_cases hl : i < b.samples.length
      · rw [if_pos (hi.symm ▸ hl), if_pos ⟨h.1, h.2, he, hl⟩]
        rfl
      · rw [if_neg (hi.symm ▸ hl), if_neg (by tauto), List.getElem?_eq_none (by omega)]
    · rw [if_neg (by omega), if_neg (by tauto)]
  · rw [Buffer.set, if_neg (mt inGrid_flatIndex_iff.mp h), if_neg (by tauto)]

/-! ## New buffers -/

@[simp] theorem newBuf_width (w h : Nat) : (newBuf w h).width = w := rfl
@[simp] theorem newBuf_height (w h : Nat) : (newBuf w h).height = h := rfl
@[simp] theorem newBuf_gain (w h : Nat) : (newBuf w h).gain = defaultGain := rfl
@[simp] theorem newBuf_samples (w h : Nat) : (newBuf w h).samples = List.replicate (w * h) 0 := rfl
@[simp] theorem newBuf_at (w h i : Nat) : (newBuf w h).at i = 0 := by
  simp only [Buffer.at, newBuf_samples, List.getD_eq_getElem?_getD, List.getElem?_replicate]
  split <;> rfl

@[simp] theorem bufferOf_width (w h : Nat) (f : Nat → Sample) : (bufferOf w h f).width = w := rfl
@[simp] theorem bufferOf_height (w h : Nat) (f : Nat → Sample) : (bufferOf w h f).height = h := rfl
@[simp] theorem bufferOf_gain (w h : Nat) (f : Nat → Sample) : (bufferOf w h f).gain = defaultGain := rfl
@[simp] theorem bufferOf_length (w h : Nat) (f : Nat → Sample) : (bufferOf w h f).samples.length = w * h := by
  simp [bufferOf]

/-- A new buffer's sample at a flat index below `W*H` is the one its command computes. -/
theorem bufferOf_at {w h i : Nat} (f : Nat → Sample) (hi : i < w * h) : (bufferOf w h f).at i = f i := by
  simp [Buffer.at, bufferOf, List.getD_eq_getElem?_getD, hi]

theorem bufferOf_at_grid {w h x y : Nat} (f : Nat → Sample) (hx : x < w) (hy : y < h) :
    (bufferOf w h f).at (x + y * w) = f (x + y * w) := bufferOf_at f (index_lt hx hy)

/-! ## The invariant -/

theorem Buffer.wf_iff {p : Params} {b : Buffer} :
    b.wf p = true ↔ b.samples.length = b.width * b.height ∧ b.width * b.height ≤ p.slotWords ∧
      b.width < 2 ^ 31 ∧ b.height < 2 ^ 31 := by
  simp [Buffer.wf]

theorem Kernel.wf_iff {p : Params} {k : Kernel} :
    k.wf p = true ↔ k.weights.length = k.width * k.height ∧ k.width * k.height ≤ p.kmaxTaps ∧
      k.width < 2 ^ 31 ∧ k.height < 2 ^ 31 ∧ k.gain = wrap16 (sampleSum k.weights) := by
  simp [Kernel.wf]

theorem Buffer.wf_atReset (p : Params) : Buffer.atReset.wf p = true := by
  simp [Buffer.wf, Buffer.atReset]

theorem Kernel.wf_atReset (p : Params) : Kernel.atReset.wf p = true := by
  simp [Kernel.wf, Kernel.atReset, sampleSum, wrap16]

theorem newBuf_wf {p : Params} {w h : Nat} (hc : w * h ≤ p.slotWords) (hw : w < 2 ^ 31) (hh : h < 2 ^ 31) :
    (newBuf w h).wf p = true := by
  simp [Buffer.wf, hc]; omega

theorem bufferOf_wf {p : Params} {w h : Nat} (f : Nat → Sample) (hc : w * h ≤ p.slotWords) (hw : w < 2 ^ 31)
    (hh : h < 2 ^ 31) : (bufferOf w h f).wf p = true := by
  simp [Buffer.wf, hc]; omega

theorem Buffer.wf_set {p : Params} {b : Buffer} (x y : Int) (v : Sample) (h : b.wf p = true) :
    (b.set x y v).wf p = true := by
  simpa [Buffer.wf] using h

theorem Buffer.wf_filled {p : Params} {b : Buffer} (v : Sample) (h : b.wf p = true) : (b.filled v).wf p = true := by
  rw [Buffer.wf_iff] at h ⊢
  simp [Buffer.filled]; omega

end Sys2Proof.Machine
end

