-- ==== Sys2Proof/Laws/State.lean ====
section
/-! SUPPORT. One lemma per field per named update of State, true by rfl, so that no later proof unfolds a record update. -/

namespace Sys2Proof.Machine

variable (s : State)

/-! ### setBuf -/

@[simp] theorem State.setBuf_params (d : Slot) (b : Buffer) : (s.setBuf d b).params = s.params := rfl
@[simp] theorem State.setBuf_bufs (d : Slot) (b : Buffer) : (s.setBuf d b).bufs = s.bufs.set d.val b := rfl
@[simp] theorem State.setBuf_kers (d : Slot) (b : Buffer) : (s.setBuf d b).kers = s.kers := rfl
@[simp] theorem State.setBuf_pm (d : Slot) (b : Buffer) : (s.setBuf d b).pm = s.pm := rfl
@[simp] theorem State.setBuf_cmd (d : Slot) (b : Buffer) : (s.setBuf d b).cmd = s.cmd := rfl
@[simp] theorem State.setBuf_arg0 (d : Slot) (b : Buffer) : (s.setBuf d b).arg0 = s.arg0 := rfl
@[simp] theorem State.setBuf_arg1 (d : Slot) (b : Buffer) : (s.setBuf d b).arg1 = s.arg1 := rfl
@[simp] theorem State.setBuf_arg2 (d : Slot) (b : Buffer) : (s.setBuf d b).arg2 = s.arg2 := rfl
@[simp] theorem State.setBuf_errSticky (d : Slot) (b : Buffer) : (s.setBuf d b).errSticky = s.errSticky := rfl
@[simp] theorem State.setBuf_err (d : Slot) (b : Buffer) : (s.setBuf d b).err = s.err := rfl
@[simp] theorem State.setBuf_result (d : Slot) (b : Buffer) : (s.setBuf d b).result = s.result := rfl
@[simp] theorem State.setBuf_pcount (d : Slot) (b : Buffer) : (s.setBuf d b).pcount = s.pcount := rfl
@[simp] theorem State.setBuf_pkW (d : Slot) (b : Buffer) : (s.setBuf d b).pkW = s.pkW := rfl
@[simp] theorem State.setBuf_pkH (d : Slot) (b : Buffer) : (s.setBuf d b).pkH = s.pkH := rfl
@[simp] theorem State.setBuf_inFlight (d : Slot) (b : Buffer) : (s.setBuf d b).inFlight = s.inFlight := rfl
@[simp] theorem State.setBuf_resetAsserted (d : Slot) (b : Buffer) : (s.setBuf d b).resetAsserted = s.resetAsserted := rfl
@[simp] theorem State.setBuf_hostQueue (d : Slot) (b : Buffer) : (s.setBuf d b).hostQueue = s.hostQueue := rfl
@[simp] theorem State.setBuf_replies (d : Slot) (b : Buffer) : (s.setBuf d b).replies = s.replies := rfl
@[simp] theorem State.setBuf_hostFault (d : Slot) (b : Buffer) : (s.setBuf d b).hostFault = s.hostFault := rfl
@[simp] theorem State.setBuf_latencies (d : Slot) (b : Buffer) : (s.setBuf d b).latencies = s.latencies := rfl
@[simp] theorem State.setBuf_draws (d : Slot) (b : Buffer) : (s.setBuf d b).draws = s.draws := rfl

/-! ### setKer -/

@[simp] theorem State.setKer_params (k : Slot) (v : Kernel) : (s.setKer k v).params = s.params := rfl
@[simp] theorem State.setKer_bufs (k : Slot) (v : Kernel) : (s.setKer k v).bufs = s.bufs := rfl
@[simp] theorem State.setKer_kers (k : Slot) (v : Kernel) : (s.setKer k v).kers = s.kers.set k.val v := rfl
@[simp] theorem State.setKer_pm (k : Slot) (v : Kernel) : (s.setKer k v).pm = s.pm := rfl
@[simp] theorem State.setKer_cmd (k : Slot) (v : Kernel) : (s.setKer k v).cmd = s.cmd := rfl
@[simp] theorem State.setKer_arg0 (k : Slot) (v : Kernel) : (s.setKer k v).arg0 = s.arg0 := rfl
@[simp] theorem State.setKer_arg1 (k : Slot) (v : Kernel) : (s.setKer k v).arg1 = s.arg1 := rfl
@[simp] theorem State.setKer_arg2 (k : Slot) (v : Kernel) : (s.setKer k v).arg2 = s.arg2 := rfl
@[simp] theorem State.setKer_errSticky (k : Slot) (v : Kernel) : (s.setKer k v).errSticky = s.errSticky := rfl
@[simp] theorem State.setKer_err (k : Slot) (v : Kernel) : (s.setKer k v).err = s.err := rfl
@[simp] theorem State.setKer_result (k : Slot) (v : Kernel) : (s.setKer k v).result = s.result := rfl
@[simp] theorem State.setKer_pcount (k : Slot) (v : Kernel) : (s.setKer k v).pcount = s.pcount := rfl
@[simp] theorem State.setKer_pkW (k : Slot) (v : Kernel) : (s.setKer k v).pkW = s.pkW := rfl
@[simp] theorem State.setKer_pkH (k : Slot) (v : Kernel) : (s.setKer k v).pkH = s.pkH := rfl
@[simp] theorem State.setKer_inFlight (k : Slot) (v : Kernel) : (s.setKer k v).inFlight = s.inFlight := rfl
@[simp] theorem State.setKer_resetAsserted (k : Slot) (v : Kernel) : (s.setKer k v).resetAsserted = s.resetAsserted := rfl
@[simp] theorem State.setKer_hostQueue (k : Slot) (v : Kernel) : (s.setKer k v).hostQueue = s.hostQueue := rfl
@[simp] theorem State.setKer_replies (k : Slot) (v : Kernel) : (s.setKer k v).replies = s.replies := rfl
@[simp] theorem State.setKer_hostFault (k : Slot) (v : Kernel) : (s.setKer k v).hostFault = s.hostFault := rfl
@[simp] theorem State.setKer_latencies (k : Slot) (v : Kernel) : (s.setKer k v).latencies = s.latencies := rfl
@[simp] theorem State.setKer_draws (k : Slot) (v : Kernel) : (s.setKer k v).draws = s.draws := rfl

/-! ### setResult -/

@[simp] theorem State.setResult_params (v : Word) : (s.setResult v).params = s.params := rfl
@[simp] theorem State.setResult_bufs (v : Word) : (s.setResult v).bufs = s.bufs := rfl
@[simp] theorem State.setResult_kers (v : Word) : (s.setResult v).kers = s.kers := rfl
@[simp] theorem State.setResult_pm (v : Word) : (s.setResult v).pm = s.pm := rfl
@[simp] theorem State.setResult_cmd (v : Word) : (s.setResult v).cmd = s.cmd := rfl
@[simp] theorem State.setResult_arg0 (v : Word) : (s.setResult v).arg0 = s.arg0 := rfl
@[simp] theorem State.setResult_arg1 (v : Word) : (s.setResult v).arg1 = s.arg1 := rfl
@[simp] theorem State.setResult_arg2 (v : Word) : (s.setResult v).arg2 = s.arg2 := rfl
@[simp] theorem State.setResult_errSticky (v : Word) : (s.setResult v).errSticky = s.errSticky := rfl
@[simp] theorem State.setResult_err (v : Word) : (s.setResult v).err = s.err := rfl
@[simp] theorem State.setResult_result (v : Word) : (s.setResult v).result = v := rfl
@[simp] theorem State.setResult_pcount (v : Word) : (s.setResult v).pcount = s.pcount := rfl
@[simp] theorem State.setResult_pkW (v : Word) : (s.setResult v).pkW = s.pkW := rfl
@[simp] theorem State.setResult_pkH (v : Word) : (s.setResult v).pkH = s.pkH := rfl
@[simp] theorem State.setResult_inFlight (v : Word) : (s.setResult v).inFlight = s.inFlight := rfl
@[simp] theorem State.setResult_resetAsserted (v : Word) : (s.setResult v).resetAsserted = s.resetAsserted := rfl
@[simp] theorem State.setResult_hostQueue (v : Word) : (s.setResult v).hostQueue = s.hostQueue := rfl
@[simp] theorem State.setResult_replies (v : Word) : (s.setResult v).replies = s.replies := rfl
@[simp] theorem State.setResult_hostFault (v : Word) : (s.setResult v).hostFault = s.hostFault := rfl
@[simp] theorem State.setResult_latencies (v : Word) : (s.setResult v).latencies = s.latencies := rfl
@[simp] theorem State.setResult_draws (v : Word) : (s.setResult v).draws = s.draws := rfl

/-! ### setPacked -/

@[simp] theorem State.setPacked_params (m : Memory) (n w h : Nat) : (s.setPacked m n w h).params = s.params := rfl
@[simp] theorem State.setPacked_bufs (m : Memory) (n w h : Nat) : (s.setPacked m n w h).bufs = s.bufs := rfl
@[simp] theorem State.setPacked_kers (m : Memory) (n w h : Nat) : (s.setPacked m n w h).kers = s.kers := rfl
@[simp] theorem State.setPacked_pm (m : Memory) (n w h : Nat) : (s.setPacked m n w h).pm = m := rfl
@[simp] theorem State.setPacked_cmd (m : Memory) (n w h : Nat) : (s.setPacked m n w h).cmd = s.cmd := rfl
@[simp] theorem State.setPacked_arg0 (m : Memory) (n w h : Nat) : (s.setPacked m n w h).arg0 = s.arg0 := rfl
@[simp] theorem State.setPacked_arg1 (m : Memory) (n w h : Nat) : (s.setPacked m n w h).arg1 = s.arg1 := rfl
@[simp] theorem State.setPacked_arg2 (m : Memory) (n w h : Nat) : (s.setPacked m n w h).arg2 = s.arg2 := rfl
@[simp] theorem State.setPacked_errSticky (m : Memory) (n w h : Nat) : (s.setPacked m n w h).errSticky = s.errSticky := rfl
@[simp] theorem State.setPacked_err (m : Memory) (n w h : Nat) : (s.setPacked m n w h).err = s.err := rfl
@[simp] theorem State.setPacked_result (m : Memory) (n w h : Nat) : (s.setPacked m n w h).result = s.result := rfl
@[simp] theorem State.setPacked_pcount (m : Memory) (n w h : Nat) : (s.setPacked m n w h).pcount = BitVec.ofNat 32 n := rfl
@[simp] theorem State.setPacked_pkW (m : Memory) (n w h : Nat) : (s.setPacked m n w h).pkW = BitVec.ofNat 32 w := rfl
@[simp] theorem State.setPacked_pkH (m : Memory) (n w h : Nat) : (s.setPacked m n w h).pkH = BitVec.ofNat 32 h := rfl
@[simp] theorem State.setPacked_inFlight (m : Memory) (n w h : Nat) : (s.setPacked m n w h).inFlight = s.inFlight := rfl
@[simp] theorem State.setPacked_resetAsserted (m : Memory) (n w h : Nat) : (s.setPacked m n w h).resetAsserted = s.resetAsserted := rfl
@[simp] theorem State.setPacked_hostQueue (m : Memory) (n w h : Nat) : (s.setPacked m n w h).hostQueue = s.hostQueue := rfl
@[simp] theorem State.setPacked_replies (m : Memory) (n w h : Nat) : (s.setPacked m n w h).replies = s.replies := rfl
@[simp] theorem State.setPacked_hostFault (m : Memory) (n w h : Nat) : (s.setPacked m n w h).hostFault = s.hostFault := rfl
@[simp] theorem State.setPacked_latencies (m : Memory) (n w h : Nat) : (s.setPacked m n w h).latencies = s.latencies := rfl
@[simp] theorem State.setPacked_draws (m : Memory) (n w h : Nat) : (s.setPacked m n w h).draws = s.draws := rfl

/-! ### complete -/

@[simp] theorem State.complete_params (e : ErrorCode) : (s.complete e).params = s.params := rfl
@[simp] theorem State.complete_bufs (e : ErrorCode) : (s.complete e).bufs = s.bufs := rfl
@[simp] theorem State.complete_kers (e : ErrorCode) : (s.complete e).kers = s.kers := rfl
@[simp] theorem State.complete_pm (e : ErrorCode) : (s.complete e).pm = s.pm := rfl
@[simp] theorem State.complete_cmd (e : ErrorCode) : (s.complete e).cmd = s.cmd := rfl
@[simp] theorem State.complete_arg0 (e : ErrorCode) : (s.complete e).arg0 = s.arg0 := rfl
@[simp] theorem State.complete_arg1 (e : ErrorCode) : (s.complete e).arg1 = s.arg1 := rfl
@[simp] theorem State.complete_arg2 (e : ErrorCode) : (s.complete e).arg2 = s.arg2 := rfl
@[simp] theorem State.complete_errSticky (e : ErrorCode) : (s.complete e).errSticky = (s.errSticky || decide (e ≠ .ok)) := rfl
@[simp] theorem State.complete_err (e : ErrorCode) : (s.complete e).err = e := rfl
@[simp] theorem State.complete_result (e : ErrorCode) : (s.complete e).result = s.result := rfl
@[simp] theorem State.complete_pcount (e : ErrorCode) : (s.complete e).pcount = s.pcount := rfl
@[simp] theorem State.complete_pkW (e : ErrorCode) : (s.complete e).pkW = s.pkW := rfl
@[simp] theorem State.complete_pkH (e : ErrorCode) : (s.complete e).pkH = s.pkH := rfl
@[simp] theorem State.complete_inFlight (e : ErrorCode) : (s.complete e).inFlight = none := rfl
@[simp] theorem State.complete_resetAsserted (e : ErrorCode) : (s.complete e).resetAsserted = s.resetAsserted := rfl
@[simp] theorem State.complete_hostQueue (e : ErrorCode) : (s.complete e).hostQueue = s.hostQueue := rfl
@[simp] theorem State.complete_replies (e : ErrorCode) : (s.complete e).replies = s.replies := rfl
@[simp] theorem State.complete_hostFault (e : ErrorCode) : (s.complete e).hostFault = s.hostFault := rfl
@[simp] theorem State.complete_latencies (e : ErrorCode) : (s.complete e).latencies = s.latencies := rfl
@[simp] theorem State.complete_draws (e : ErrorCode) : (s.complete e).draws = s.draws := rfl

/-! ### accept -/

@[simp] theorem State.accept_params (w : Word) : (s.accept w).params = s.params := rfl
@[simp] theorem State.accept_bufs (w : Word) : (s.accept w).bufs = s.bufs := rfl
@[simp] theorem State.accept_kers (w : Word) : (s.accept w).kers = s.kers := rfl
@[simp] theorem State.accept_pm (w : Word) : (s.accept w).pm = s.pm := rfl
@[simp] theorem State.accept_cmd (w : Word) : (s.accept w).cmd = w := rfl
@[simp] theorem State.accept_arg0 (w : Word) : (s.accept w).arg0 = s.arg0 := rfl
@[simp] theorem State.accept_arg1 (w : Word) : (s.accept w).arg1 = s.arg1 := rfl
@[simp] theorem State.accept_arg2 (w : Word) : (s.accept w).arg2 = s.arg2 := rfl
@[simp] theorem State.accept_errSticky (w : Word) : (s.accept w).errSticky = s.errSticky := rfl
@[simp] theorem State.accept_err (w : Word) : (s.accept w).err = s.err := rfl
@[simp] theorem State.accept_result (w : Word) : (s.accept w).result = s.result := rfl
@[simp] theorem State.accept_pcount (w : Word) : (s.accept w).pcount = s.pcount := rfl
@[simp] theorem State.accept_pkW (w : Word) : (s.accept w).pkW = s.pkW := rfl
@[simp] theorem State.accept_pkH (w : Word) : (s.accept w).pkH = s.pkH := rfl
@[simp] theorem State.accept_inFlight (w : Word) : (s.accept w).inFlight = some { word := w, arg0 := s.arg0, arg1 := s.arg1, arg2 := s.arg2, slack := s.latencies.headD 0 } := rfl
@[simp] theorem State.accept_resetAsserted (w : Word) : (s.accept w).resetAsserted = s.resetAsserted := rfl
@[simp] theorem State.accept_hostQueue (w : Word) : (s.accept w).hostQueue = s.hostQueue := rfl
@[simp] theorem State.accept_replies (w : Word) : (s.accept w).replies = s.replies := rfl
@[simp] theorem State.accept_hostFault (w : Word) : (s.accept w).hostFault = s.hostFault := rfl
@[simp] theorem State.accept_latencies (w : Word) : (s.accept w).latencies = s.latencies.tail := rfl
@[simp] theorem State.accept_draws (w : Word) : (s.accept w).draws = s.draws := rfl

/-! ### inFlightWord -/

@[simp] theorem State.inFlightWord_params (w : Word) : (s.inFlightWord w).params = s.params := rfl
@[simp] theorem State.inFlightWord_bufs (w : Word) : (s.inFlightWord w).bufs = s.bufs := rfl
@[simp] theorem State.inFlightWord_kers (w : Word) : (s.inFlightWord w).kers = s.kers := rfl
@[simp] theorem State.inFlightWord_pm (w : Word) : (s.inFlightWord w).pm = s.pm := rfl
@[simp] theorem State.inFlightWord_cmd (w : Word) : (s.inFlightWord w).cmd = w := rfl
@[simp] theorem State.inFlightWord_arg0 (w : Word) : (s.inFlightWord w).arg0 = s.arg0 := rfl
@[simp] theorem State.inFlightWord_arg1 (w : Word) : (s.inFlightWord w).arg1 = s.arg1 := rfl
@[simp] theorem State.inFlightWord_arg2 (w : Word) : (s.inFlightWord w).arg2 = s.arg2 := rfl
@[simp] theorem State.inFlightWord_errSticky (w : Word) : (s.inFlightWord w).errSticky = s.errSticky := rfl
@[simp] theorem State.inFlightWord_err (w : Word) : (s.inFlightWord w).err = s.err := rfl
@[simp] theorem State.inFlightWord_result (w : Word) : (s.inFlightWord w).result = s.result := rfl
@[simp] theorem State.inFlightWord_pcount (w : Word) : (s.inFlightWord w).pcount = s.pcount := rfl
@[simp] theorem State.inFlightWord_pkW (w : Word) : (s.inFlightWord w).pkW = s.pkW := rfl
@[simp] theorem State.inFlightWord_pkH (w : Word) : (s.inFlightWord w).pkH = s.pkH := rfl
@[simp] theorem State.inFlightWord_inFlight (w : Word) : (s.inFlightWord w).inFlight = some { word := w, arg0 := s.arg0, arg1 := s.arg1, arg2 := s.arg2, slack := 0 } := rfl
@[simp] theorem State.inFlightWord_resetAsserted (w : Word) : (s.inFlightWord w).resetAsserted = s.resetAsserted := rfl
@[simp] theorem State.inFlightWord_hostQueue (w : Word) : (s.inFlightWord w).hostQueue = s.hostQueue := rfl
@[simp] theorem State.inFlightWord_replies (w : Word) : (s.inFlightWord w).replies = s.replies := rfl
@[simp] theorem State.inFlightWord_hostFault (w : Word) : (s.inFlightWord w).hostFault = s.hostFault := rfl
@[simp] theorem State.inFlightWord_latencies (w : Word) : (s.inFlightWord w).latencies = s.latencies := rfl
@[simp] theorem State.inFlightWord_draws (w : Word) : (s.inFlightWord w).draws = s.draws := rfl

/-! ### writeStatus -/

@[simp] theorem State.writeStatus_params (v : Word) : (s.writeStatus v).params = s.params := rfl
@[simp] theorem State.writeStatus_bufs (v : Word) : (s.writeStatus v).bufs = s.bufs := rfl
@[simp] theorem State.writeStatus_kers (v : Word) : (s.writeStatus v).kers = s.kers := rfl
@[simp] theorem State.writeStatus_pm (v : Word) : (s.writeStatus v).pm = s.pm := rfl
@[simp] theorem State.writeStatus_cmd (v : Word) : (s.writeStatus v).cmd = s.cmd := rfl
@[simp] theorem State.writeStatus_arg0 (v : Word) : (s.writeStatus v).arg0 = s.arg0 := rfl
@[simp] theorem State.writeStatus_arg1 (v : Word) : (s.writeStatus v).arg1 = s.arg1 := rfl
@[simp] theorem State.writeStatus_arg2 (v : Word) : (s.writeStatus v).arg2 = s.arg2 := rfl
@[simp] theorem State.writeStatus_errSticky (v : Word) : (s.writeStatus v).errSticky = (s.errSticky && !v.getLsbD 1) := rfl
@[simp] theorem State.writeStatus_err (v : Word) : (s.writeStatus v).err = s.err := rfl
@[simp] theorem State.writeStatus_result (v : Word) : (s.writeStatus v).result = s.result := rfl
@[simp] theorem State.writeStatus_pcount (v : Word) : (s.writeStatus v).pcount = s.pcount := rfl
@[simp] theorem State.writeStatus_pkW (v : Word) : (s.writeStatus v).pkW = s.pkW := rfl
@[simp] theorem State.writeStatus_pkH (v : Word) : (s.writeStatus v).pkH = s.pkH := rfl
@[simp] theorem State.writeStatus_inFlight (v : Word) : (s.writeStatus v).inFlight = s.inFlight := rfl
@[simp] theorem State.writeStatus_resetAsserted (v : Word) : (s.writeStatus v).resetAsserted = s.resetAsserted := rfl
@[simp] theorem State.writeStatus_hostQueue (v : Word) : (s.writeStatus v).hostQueue = s.hostQueue := rfl
@[simp] theorem State.writeStatus_replies (v : Word) : (s.writeStatus v).replies = s.replies := rfl
@[simp] theorem State.writeStatus_hostFault (v : Word) : (s.writeStatus v).hostFault = s.hostFault := rfl
@[simp] theorem State.writeStatus_latencies (v : Word) : (s.writeStatus v).latencies = s.latencies := rfl
@[simp] theorem State.writeStatus_draws (v : Word) : (s.writeStatus v).draws = s.draws := rfl

/-! ### addReply -/

@[simp] theorem State.addReply_params (r : Reply) : (s.addReply r).params = s.params := rfl
@[simp] theorem State.addReply_bufs (r : Reply) : (s.addReply r).bufs = s.bufs := rfl
@[simp] theorem State.addReply_kers (r : Reply) : (s.addReply r).kers = s.kers := rfl
@[simp] theorem State.addReply_pm (r : Reply) : (s.addReply r).pm = s.pm := rfl
@[simp] theorem State.addReply_cmd (r : Reply) : (s.addReply r).cmd = s.cmd := rfl
@[simp] theorem State.addReply_arg0 (r : Reply) : (s.addReply r).arg0 = s.arg0 := rfl
@[simp] theorem State.addReply_arg1 (r : Reply) : (s.addReply r).arg1 = s.arg1 := rfl
@[simp] theorem State.addReply_arg2 (r : Reply) : (s.addReply r).arg2 = s.arg2 := rfl
@[simp] theorem State.addReply_errSticky (r : Reply) : (s.addReply r).errSticky = s.errSticky := rfl
@[simp] theorem State.addReply_err (r : Reply) : (s.addReply r).err = s.err := rfl
@[simp] theorem State.addReply_result (r : Reply) : (s.addReply r).result = s.result := rfl
@[simp] theorem State.addReply_pcount (r : Reply) : (s.addReply r).pcount = s.pcount := rfl
@[simp] theorem State.addReply_pkW (r : Reply) : (s.addReply r).pkW = s.pkW := rfl
@[simp] theorem State.addReply_pkH (r : Reply) : (s.addReply r).pkH = s.pkH := rfl
@[simp] theorem State.addReply_inFlight (r : Reply) : (s.addReply r).inFlight = s.inFlight := rfl
@[simp] theorem State.addReply_resetAsserted (r : Reply) : (s.addReply r).resetAsserted = s.resetAsserted := rfl
@[simp] theorem State.addReply_hostQueue (r : Reply) : (s.addReply r).hostQueue = s.hostQueue := rfl
@[simp] theorem State.addReply_replies (r : Reply) : (s.addReply r).replies = r :: s.replies := rfl
@[simp] theorem State.addReply_hostFault (r : Reply) : (s.addReply r).hostFault = s.hostFault := rfl
@[simp] theorem State.addReply_latencies (r : Reply) : (s.addReply r).latencies = s.latencies := rfl
@[simp] theorem State.addReply_draws (r : Reply) : (s.addReply r).draws = s.draws := rfl

/-! ### refuseAccess -/

@[simp] theorem State.refuseAccess_params : (s.refuseAccess).params = s.params := rfl
@[simp] theorem State.refuseAccess_bufs : (s.refuseAccess).bufs = s.bufs := rfl
@[simp] theorem State.refuseAccess_kers : (s.refuseAccess).kers = s.kers := rfl
@[simp] theorem State.refuseAccess_pm : (s.refuseAccess).pm = s.pm := rfl
@[simp] theorem State.refuseAccess_cmd : (s.refuseAccess).cmd = s.cmd := rfl
@[simp] theorem State.refuseAccess_arg0 : (s.refuseAccess).arg0 = s.arg0 := rfl
@[simp] theorem State.refuseAccess_arg1 : (s.refuseAccess).arg1 = s.arg1 := rfl
@[simp] theorem State.refuseAccess_arg2 : (s.refuseAccess).arg2 = s.arg2 := rfl
@[simp] theorem State.refuseAccess_errSticky : (s.refuseAccess).errSticky = s.errSticky := rfl
@[simp] theorem State.refuseAccess_err : (s.refuseAccess).err = s.err := rfl
@[simp] theorem State.refuseAccess_result : (s.refuseAccess).result = s.result := rfl
@[simp] theorem State.refuseAccess_pcount : (s.refuseAccess).pcount = s.pcount := rfl
@[simp] theorem State.refuseAccess_pkW : (s.refuseAccess).pkW = s.pkW := rfl
@[simp] theorem State.refuseAccess_pkH : (s.refuseAccess).pkH = s.pkH := rfl
@[simp] theorem State.refuseAccess_inFlight : (s.refuseAccess).inFlight = s.inFlight := rfl
@[simp] theorem State.refuseAccess_resetAsserted : (s.refuseAccess).resetAsserted = s.resetAsserted := rfl
@[simp] theorem State.refuseAccess_hostQueue : (s.refuseAccess).hostQueue = s.hostQueue := rfl
@[simp] theorem State.refuseAccess_replies : (s.refuseAccess).replies = .busError :: s.replies := rfl
@[simp] theorem State.refuseAccess_hostFault : (s.refuseAccess).hostFault = true := rfl
@[simp] theorem State.refuseAccess_latencies : (s.refuseAccess).latencies = s.latencies := rfl
@[simp] theorem State.refuseAccess_draws : (s.refuseAccess).draws = s.draws := rfl

/-! ### useSlack -/

@[simp] theorem State.useSlack_params : (s.useSlack).params = s.params := rfl
@[simp] theorem State.useSlack_bufs : (s.useSlack).bufs = s.bufs := rfl
@[simp] theorem State.useSlack_kers : (s.useSlack).kers = s.kers := rfl
@[simp] theorem State.useSlack_pm : (s.useSlack).pm = s.pm := rfl
@[simp] theorem State.useSlack_cmd : (s.useSlack).cmd = s.cmd := rfl
@[simp] theorem State.useSlack_arg0 : (s.useSlack).arg0 = s.arg0 := rfl
@[simp] theorem State.useSlack_arg1 : (s.useSlack).arg1 = s.arg1 := rfl
@[simp] theorem State.useSlack_arg2 : (s.useSlack).arg2 = s.arg2 := rfl
@[simp] theorem State.useSlack_errSticky : (s.useSlack).errSticky = s.errSticky := rfl
@[simp] theorem State.useSlack_err : (s.useSlack).err = s.err := rfl
@[simp] theorem State.useSlack_result : (s.useSlack).result = s.result := rfl
@[simp] theorem State.useSlack_pcount : (s.useSlack).pcount = s.pcount := rfl
@[simp] theorem State.useSlack_pkW : (s.useSlack).pkW = s.pkW := rfl
@[simp] theorem State.useSlack_pkH : (s.useSlack).pkH = s.pkH := rfl
@[simp] theorem State.useSlack_inFlight : (s.useSlack).inFlight = s.inFlight.map fun c => { c with slack := c.slack - 1 } := rfl
@[simp] theorem State.useSlack_resetAsserted : (s.useSlack).resetAsserted = s.resetAsserted := rfl
@[simp] theorem State.useSlack_hostQueue : (s.useSlack).hostQueue = s.hostQueue := rfl
@[simp] theorem State.useSlack_replies : (s.useSlack).replies = s.replies := rfl
@[simp] theorem State.useSlack_hostFault : (s.useSlack).hostFault = s.hostFault := rfl
@[simp] theorem State.useSlack_latencies : (s.useSlack).latencies = s.latencies := rfl
@[simp] theorem State.useSlack_draws : (s.useSlack).draws = s.draws := rfl

/-! ### takeMove -/

@[simp] theorem State.takeMove_params (rest : List HostMove) : (s.takeMove rest).params = s.params := rfl
@[simp] theorem State.takeMove_bufs (rest : List HostMove) : (s.takeMove rest).bufs = s.bufs := rfl
@[simp] theorem State.takeMove_kers (rest : List HostMove) : (s.takeMove rest).kers = s.kers := rfl
@[simp] theorem State.takeMove_pm (rest : List HostMove) : (s.takeMove rest).pm = s.pm := rfl
@[simp] theorem State.takeMove_cmd (rest : List HostMove) : (s.takeMove rest).cmd = s.cmd := rfl
@[simp] theorem State.takeMove_arg0 (rest : List HostMove) : (s.takeMove rest).arg0 = s.arg0 := rfl
@[simp] theorem State.takeMove_arg1 (rest : List HostMove) : (s.takeMove rest).arg1 = s.arg1 := rfl
@[simp] theorem State.takeMove_arg2 (rest : List HostMove) : (s.takeMove rest).arg2 = s.arg2 := rfl
@[simp] theorem State.takeMove_errSticky (rest : List HostMove) : (s.takeMove rest).errSticky = s.errSticky := rfl
@[simp] theorem State.takeMove_err (rest : List HostMove) : (s.takeMove rest).err = s.err := rfl
@[simp] theorem State.takeMove_result (rest : List HostMove) : (s.takeMove rest).result = s.result := rfl
@[simp] theorem State.takeMove_pcount (rest : List HostMove) : (s.takeMove rest).pcount = s.pcount := rfl
@[simp] theorem State.takeMove_pkW (rest : List HostMove) : (s.takeMove rest).pkW = s.pkW := rfl
@[simp] theorem State.takeMove_pkH (rest : List HostMove) : (s.takeMove rest).pkH = s.pkH := rfl
@[simp] theorem State.takeMove_inFlight (rest : List HostMove) : (s.takeMove rest).inFlight = s.inFlight.map fun c => { c with slack := c.slack - 1 } := rfl
@[simp] theorem State.takeMove_resetAsserted (rest : List HostMove) : (s.takeMove rest).resetAsserted = s.resetAsserted := rfl
@[simp] theorem State.takeMove_hostQueue (rest : List HostMove) : (s.takeMove rest).hostQueue = rest := rfl
@[simp] theorem State.takeMove_replies (rest : List HostMove) : (s.takeMove rest).replies = s.replies := rfl
@[simp] theorem State.takeMove_hostFault (rest : List HostMove) : (s.takeMove rest).hostFault = s.hostFault := rfl
@[simp] theorem State.takeMove_latencies (rest : List HostMove) : (s.takeMove rest).latencies = s.latencies := rfl
@[simp] theorem State.takeMove_draws (rest : List HostMove) : (s.takeMove rest).draws = s.draws := rfl

/-! ### underReset -/

@[simp] theorem State.underReset_params : (s.underReset).params = s.params := rfl
@[simp] theorem State.underReset_bufs : (s.underReset).bufs = List.replicate s.params.nbuf Buffer.atReset := rfl
@[simp] theorem State.underReset_kers : (s.underReset).kers = List.replicate s.params.nker Kernel.atReset := rfl
@[simp] theorem State.underReset_pm : (s.underReset).pm = [] := rfl
@[simp] theorem State.underReset_cmd : (s.underReset).cmd = 0 := rfl
@[simp] theorem State.underReset_arg0 : (s.underReset).arg0 = 0 := rfl
@[simp] theorem State.underReset_arg1 : (s.underReset).arg1 = 0 := rfl
@[simp] theorem State.underReset_arg2 : (s.underReset).arg2 = 0 := rfl
@[simp] theorem State.underReset_errSticky : (s.underReset).errSticky = false := rfl
@[simp] theorem State.underReset_err : (s.underReset).err = .ok := rfl
@[simp] theorem State.underReset_result : (s.underReset).result = 0 := rfl
@[simp] theorem State.underReset_pcount : (s.underReset).pcount = 0 := rfl
@[simp] theorem State.underReset_pkW : (s.underReset).pkW = 0 := rfl
@[simp] theorem State.underReset_pkH : (s.underReset).pkH = 0 := rfl
@[simp] theorem State.underReset_inFlight : (s.underReset).inFlight = none := rfl
@[simp] theorem State.underReset_resetAsserted : (s.underReset).resetAsserted = true := rfl
@[simp] theorem State.underReset_hostQueue : (s.underReset).hostQueue = s.hostQueue := rfl
@[simp] theorem State.underReset_replies : (s.underReset).replies = s.replies := rfl
@[simp] theorem State.underReset_hostFault : (s.underReset).hostFault = s.hostFault := rfl
@[simp] theorem State.underReset_latencies : (s.underReset).latencies = s.latencies := rfl
@[simp] theorem State.underReset_draws : (s.underReset).draws = s.draws := rfl

/-! ### afterPackedRead: it can change nothing but `draws` -/

@[simp] theorem State.afterPackedRead_params (a n : Nat) : (s.afterPackedRead a n).params = s.params := by
  unfold State.afterPackedRead; split <;> rfl
@[simp] theorem State.afterPackedRead_bufs (a n : Nat) : (s.afterPackedRead a n).bufs = s.bufs := by
  unfold State.afterPackedRead; split <;> rfl
@[simp] theorem State.afterPackedRead_kers (a n : Nat) : (s.afterPackedRead a n).kers = s.kers := by
  unfold State.afterPackedRead; split <;> rfl
@[simp] theorem State.afterPackedRead_pm (a n : Nat) : (s.afterPackedRead a n).pm = s.pm := by
  unfold State.afterPackedRead; split <;> rfl
@[simp] theorem State.afterPackedRead_cmd (a n : Nat) : (s.afterPackedRead a n).cmd = s.cmd := by
  unfold State.afterPackedRead; split <;> rfl
@[simp] theorem State.afterPackedRead_arg0 (a n : Nat) : (s.afterPackedRead a n).arg0 = s.arg0 := by
  unfold State.afterPackedRead; split <;> rfl
@[simp] theorem State.afterPackedRead_arg1 (a n : Nat) : (s.afterPackedRead a n).arg1 = s.arg1 := by
  unfold State.afterPackedRead; split <;> rfl
@[simp] theorem State.afterPackedRead_arg2 (a n : Nat) : (s.afterPackedRead a n).arg2 = s.arg2 := by
  unfold State.afterPackedRead; split <;> rfl
@[simp] theorem State.afterPackedRead_errSticky (a n : Nat) : (s.afterPackedRead a n).errSticky = s.errSticky := by
  unfold State.afterPackedRead; split <;> rfl
@[simp] theorem State.afterPackedRead_err (a n : Nat) : (s.afterPackedRead a n).err = s.err := by
  unfold State.afterPackedRead; split <;> rfl
@[simp] theorem State.afterPackedRead_result (a n : Nat) : (s.afterPackedRead a n).result = s.result := by
  unfold State.afterPackedRead; split <;> rfl
@[simp] theorem State.afterPackedRead_pcount (a n : Nat) : (s.afterPackedRead a n).pcount = s.pcount := by
  unfold State.afterPackedRead; split <;> rfl
@[simp] theorem State.afterPackedRead_pkW (a n : Nat) : (s.afterPackedRead a n).pkW = s.pkW := by
  unfold State.afterPackedRead; split <;> rfl
@[simp] theorem State.afterPackedRead_pkH (a n : Nat) : (s.afterPackedRead a n).pkH = s.pkH := by
  unfold State.afterPackedRead; split <;> rfl
@[simp] theorem State.afterPackedRead_inFlight (a n : Nat) : (s.afterPackedRead a n).inFlight = s.inFlight := by
  unfold State.afterPackedRead; split <;> rfl
@[simp] theorem State.afterPackedRead_resetAsserted (a n : Nat) : (s.afterPackedRead a n).resetAsserted = s.resetAsserted := by
  unfold State.afterPackedRead; split <;> rfl
@[simp] theorem State.afterPackedRead_hostQueue (a n : Nat) : (s.afterPackedRead a n).hostQueue = s.hostQueue := by
  unfold State.afterPackedRead; split <;> rfl
@[simp] theorem State.afterPackedRead_replies (a n : Nat) : (s.afterPackedRead a n).replies = s.replies := by
  unfold State.afterPackedRead; split <;> rfl
@[simp] theorem State.afterPackedRead_hostFault (a n : Nat) : (s.afterPackedRead a n).hostFault = s.hostFault := by
  unfold State.afterPackedRead; split <;> rfl
@[simp] theorem State.afterPackedRead_latencies (a n : Nat) : (s.afterPackedRead a n).latencies = s.latencies := by
  unfold State.afterPackedRead; split <;> rfl

end Sys2Proof.Machine
end

