-- ==== Sys2Proof/Laws/Slots.lean ====
section
/-! SUPPORT. Slots: a slot read after a slot written, and the other slots (10_state.md R34). -/

namespace Sys2Proof.Machine

theorem State.buf_setBuf_self {s : State} {d : Slot} (b : Buffer) (h : d.val < s.bufs.length) :
    (s.setBuf d b).buf d = b := by
  simp [State.buf, List.getD_eq_getElem?_getD, h]

theorem State.buf_setBuf_ne (s : State) {d e : Slot} (b : Buffer) (h : e ≠ d) : (s.setBuf d b).buf e = s.buf e := by
  have : d.val ≠ e.val := fun hv => h (Fin.ext hv.symm)
  simp [State.buf, List.getD_eq_getElem?_getD, this]

theorem State.ker_setKer_self {s : State} {k : Slot} (v : Kernel) (h : k.val < s.kers.length) :
    (s.setKer k v).ker k = v := by
  simp [State.ker, List.getD_eq_getElem?_getD, h]

theorem State.ker_setKer_ne (s : State) {k l : Slot} (v : Kernel) (h : l ≠ k) : (s.setKer k v).ker l = s.ker l := by
  have : k.val ≠ l.val := fun hv => h (Fin.ext hv.symm)
  simp [State.ker, List.getD_eq_getElem?_getD, this]

@[simp] theorem State.buf_complete (s : State) (e : ErrorCode) (d : Slot) : (s.complete e).buf d = s.buf d := rfl
@[simp] theorem State.ker_complete (s : State) (e : ErrorCode) (k : Slot) : (s.complete e).ker k = s.ker k := rfl
@[simp] theorem State.ker_setBuf (s : State) (d : Slot) (b : Buffer) (k : Slot) : (s.setBuf d b).ker k = s.ker k := rfl
@[simp] theorem State.buf_setKer (s : State) (k : Slot) (v : Kernel) (d : Slot) : (s.setKer k v).buf d = s.buf d := rfl
@[simp] theorem State.buf_setResult (s : State) (v : Word) (d : Slot) : (s.setResult v).buf d = s.buf d := rfl
@[simp] theorem State.ker_setResult (s : State) (v : Word) (k : Slot) : (s.setResult v).ker k = s.ker k := rfl
@[simp] theorem State.buf_setPacked (s : State) (m : Memory) (n w h : Nat) (d : Slot) :
    (s.setPacked m n w h).buf d = s.buf d := rfl
@[simp] theorem State.ker_setPacked (s : State) (m : Memory) (n w h : Nat) (k : Slot) :
    (s.setPacked m n w h).ker k = s.ker k := rfl
@[simp] theorem State.buf_afterPackedRead (s : State) (a n : Nat) (d : Slot) :
    (s.afterPackedRead a n).buf d = s.buf d := by simp [State.buf]
@[simp] theorem State.ker_afterPackedRead (s : State) (a n : Nat) (k : Slot) :
    (s.afterPackedRead a n).ker k = s.ker k := by simp [State.ker]

/-- A slot read is a slot of the store or, past its end, an empty buffer: either way it meets the invariant. -/
theorem State.buf_wf {s : State} (h : ∀ b ∈ s.bufs, b.wf s.params = true) (d : Slot) : (s.buf d).wf s.params = true := by
  unfold State.buf
  rw [List.getD_eq_getElem?_getD]
  cases hd : s.bufs[d.val]? with
  | none => exact Buffer.wf_atReset _
  | some b => exact h b (List.mem_of_getElem? hd)

theorem State.ker_wf {s : State} (h : ∀ k ∈ s.kers, k.wf s.params = true) (k : Slot) : (s.ker k).wf s.params = true := by
  unfold State.ker
  rw [List.getD_eq_getElem?_getD]
  cases hd : s.kers[k.val]? with
  | none => exact Kernel.wf_atReset _
  | some b => exact h b (List.mem_of_getElem? hd)

/-- Replacing one slot by a buffer that meets the invariant keeps it of every slot. -/
theorem State.bufs_wf_setBuf {s : State} {d : Slot} {b : Buffer} (h : ∀ b ∈ s.bufs, b.wf s.params = true)
    (hb : b.wf s.params = true) : ∀ c ∈ (s.setBuf d b).bufs, c.wf s.params = true := by
  intro c hc
  rcases List.mem_or_eq_of_mem_set hc with hc | rfl
  · exact h c hc
  · exact hb

theorem State.kers_wf_setKer {s : State} {k : Slot} {v : Kernel} (h : ∀ k ∈ s.kers, k.wf s.params = true)
    (hv : v.wf s.params = true) : ∀ c ∈ (s.setKer k v).kers, c.wf s.params = true := by
  intro c hc
  rcases List.mem_or_eq_of_mem_set hc with hc | rfl
  · exact h c hc
  · exact hv

/-! ## The operands a command finds -/

/-- The states the operands are set in find them. -/
theorem State.withArgs_findsArgs (s : State) (a0 a1 a2 : Word) : (s.withArgs a0 a1 a2).findsArgs a0 a1 a2 :=
  ⟨rfl, rfl, rfl⟩

/-- A command word just latched finds the ARG registers' values (30_encoding.md R83). -/
theorem State.inFlightWord_findsArgs (s : State) (w : Word) : (s.inFlightWord w).findsArgs s.arg0 s.arg1 s.arg2 :=
  ⟨rfl, rfl, rfl⟩

end Sys2Proof.Machine
end

