-- ==== Sys2Proof/Laws/Exec.lean ====
section
/-! SUPPORT. What running a command can do: one lemma for `command`, one inversion for `exec`. -/

namespace Sys2Proof.Machine

/-! ## command -/

theorem command_ok {i : Instr} {s : State} (u : State) (h : i.wellFormed s.params = true) :
    command i s (.ok u) = .next (u.complete .ok) := by
  simp [command, h]

theorem command_error {i : Instr} {s : State} (e : ErrorCode) (h : i.wellFormed s.params = true) :
    command i s (.error e) = .next (s.complete e) := by
  simp [command, h]

theorem command_illegal {i : Instr} {s : State} (eff : Except ErrorCode State) (h : i.wellFormed s.params = false) :
    command i s eff = .next (s.complete .illegalCommand) := by
  simp [command, h]

/-- Everything `command` can do. It never stops. -/
theorem command_cases (i : Instr) (s : State) (eff : Except ErrorCode State) :
    (i.wellFormed s.params = false ∧ command i s eff = .next (s.complete .illegalCommand)) ∨
    (i.wellFormed s.params = true ∧ ∃ e, eff = .error e ∧ command i s eff = .next (s.complete e)) ∨
    (i.wellFormed s.params = true ∧ ∃ u, eff = .ok u ∧ command i s eff = .next (u.complete .ok)) := by
  cases h : i.wellFormed s.params with
  | false => exact .inl ⟨rfl, command_illegal eff h⟩
  | true =>
    cases eff with
    | error e => exact .inr (.inl ⟨rfl, e, rfl, command_error e h⟩)
    | ok u => exact .inr (.inr ⟨rfl, u, rfl, command_ok u h⟩)

theorem command_next_iff {i : Instr} {s t : State} {eff : Except ErrorCode State} :
    command i s eff = .next t ↔
      (i.wellFormed s.params = false ∧ t = s.complete .illegalCommand) ∨
      (i.wellFormed s.params = true ∧ ∃ e, eff = .error e ∧ t = s.complete e) ∨
      (i.wellFormed s.params = true ∧ ∃ u, eff = .ok u ∧ t = u.complete .ok) := by
  cases h : i.wellFormed s.params with
  | false => simp [command, h, eq_comm]
  | true => cases eff <;> simp [command, h, eq_comm]

/-! ## The dimension checks -/

theorem checkedDims_eq_ok_iff {p : Params} {w h : Int} {a b : Nat} :
    checkedDims p w h = .ok (a, b) ↔ 0 ≤ w ∧ 0 ≤ h ∧ w * h ≤ p.slotWords ∧ a = w.toNat ∧ b = h.toNat := by
  unfold checkedDims
  split
  · constructor
    · intro h'; cases h'
    · intro h'; omega
  · split
    · constructor
      · intro h'; cases h'
      · intro h'; omega
    · simp only [Except.ok.injEq, Prod.mk.injEq]
      constructor
      · rintro ⟨rfl, rfl⟩
        refine ⟨by omega, by omega, by omega, rfl, rfl⟩
      · rintro ⟨-, -, -, rfl, rfl⟩
        exact ⟨rfl, rfl⟩

theorem checkedDims_negative {p : Params} {w h : Int} (hn : w < 0 ∨ h < 0) :
    checkedDims p w h = .error .invalidDimension := by
  simp [checkedDims, hn]

theorem checkedDims_over {p : Params} {w h : Int} (hw : 0 ≤ w) (hh : 0 ≤ h) (hc : (p.slotWords : Int) < w * h) :
    checkedDims p w h = .error .capacityExceeded := by
  have : ¬(w < 0 ∨ h < 0) := by omega
  simp [checkedDims, this, hc]

/-- Admitted dimensions fit a slot, and fit the width of W and H since the operands are 32-bit. -/
theorem checkedDims_bounds {p : Params} {x y : Word} {a b : Nat}
    (h : checkedDims p (signedOperand x) (signedOperand y) = .ok (a, b)) :
    a * b ≤ p.slotWords ∧ a < 2 ^ 31 ∧ b < 2 ^ 31 := by
  obtain ⟨hw, hh, hc, rfl, rfl⟩ := checkedDims_eq_ok_iff.mp h
  have h₁ := BitVec.toInt_lt (x := x)
  have h₂ := BitVec.toInt_lt (x := y)
  unfold signedOperand at *
  refine ⟨?_, by omega, by omega⟩
  zify
  rw [Int.toNat_of_nonneg hw, Int.toNat_of_nonneg hh]
  exact hc

/-! ## exec -/

/-- What a successful command leaves before its completion, instruction by instruction. -/
inductive Effect (s : State) : Instr → State → Prop
  | nop : Effect s .nop s
  | create (d : Slot) (w h : Nat)
      (hd : checkedDims s.params (signedOperand s.operand0) (signedOperand s.operand1) = .ok (w, h)) :
      Effect s (.create d) (s.setBuf d (newBuf w h))
  | release (d : Slot) : Effect s (.release d) (s.setBuf d (newBuf 0 0))
  | get (src : Slot) : Effect s (.get src) (s.setResult
      (((s.buf src).get (signedOperand s.operand0) (signedOperand s.operand1)).signExtend 32))
  | set (d : Slot) : Effect s (.set d) (s.setBuf d
      ((s.buf d).set (signedOperand s.operand0) (signedOperand s.operand1) (valueOperand s.operand2)))
  | fill (d : Slot) : Effect s (.fill d) (s.setBuf d ((s.buf d).filled (valueOperand s.operand0)))
  | kload (k src : Slot) (hc : (s.buf src).width * (s.buf src).height ≤ s.params.kmaxTaps) :
      Effect s (.kload k src) (s.setKer k (kernelOf (s.buf src)))
  | conv (d src k : Slot) (degain saturate corrected : Bool) :
      Effect s (.conv d src k degain saturate corrected)
        (s.setBuf d (convolved (s.buf src) (s.ker k) degain saturate corrected))
  | diff (d a b : Slot) (corrected : Bool) (hw : (s.buf a).width = (s.buf b).width)
      (hh : (s.buf a).height = (s.buf b).height) :
      Effect s (.diff d a b corrected) (s.setBuf d (difference corrected (s.buf a) (s.buf b)))
  | scaledown (d src : Slot) (hn : 1 < signedOperand s.operand0) :
      Effect s (.scaledown d src) (s.setBuf d (downscaled (s.buf src) (signedOperand s.operand0).toNat))
  | pack (r g b a : Slot) (hg : (s.buf g).sameShape (s.buf r) = true) (hb : (s.buf b).sameShape (s.buf r) = true)
      (ha : (s.buf a).sameShape (s.buf r) = true) :
      Effect s (.pack r g b a) (s.setPacked
        (interleaved s.pm (s.buf r) (s.buf g) (s.buf b) (s.buf a) ((s.buf r).width * (s.buf r).height))
        ((s.buf r).width * (s.buf r).height) (s.buf r).width (s.buf r).height)
  | unpack (r g b a : Slot) (w h : Nat)
      (hd : checkedDims s.params (signedOperand s.operand0) (signedOperand s.operand1) = .ok (w, h)) :
      Effect s (.unpack r g b a) (((((s.afterPackedRead 0 (4 * (w * h))).setBuf r (lanePlane s w h 0)).setBuf g
        (lanePlane s w h 1)).setBuf b (lanePlane s w h 2)).setBuf a (lanePlane s w h 3))

/-- Every meaning is `command` of some pseudocode, whose success is the instruction's `Effect`. -/
theorem exec_eq_command (i : Instr) (s : State) :
    ∃ eff, exec i s = command i s eff ∧ ∀ u, eff = .ok u → Effect s i u := by
  cases i with
  | nop => exact ⟨.ok s, rfl, fun u hu => by cases hu; exact .nop⟩
  | create d =>
    refine ⟨_, rfl, fun u hu => ?_⟩
    split at hu <;> cases hu
    next hd => exact .create _ _ _ hd
  | release d =>
    refine ⟨.ok (s.setBuf d (newBuf 0 0)), rfl, fun u hu => ?_⟩
    cases hu; exact .release _
  | get src =>
    refine ⟨.ok (s.setResult
      (((s.buf src).get (signedOperand s.operand0) (signedOperand s.operand1)).signExtend 32)), rfl, fun u hu => ?_⟩
    cases hu; exact .get _
  | set d =>
    refine ⟨.ok (s.setBuf d
      ((s.buf d).set (signedOperand s.operand0) (signedOperand s.operand1) (valueOperand s.operand2))), rfl, fun u hu => ?_⟩
    cases hu; exact .set _
  | fill d =>
    refine ⟨.ok (s.setBuf d ((s.buf d).filled (valueOperand s.operand0))), rfl, fun u hu => ?_⟩
    cases hu; exact .fill _
  | kload k src =>
    refine ⟨_, rfl, fun u hu => ?_⟩
    split at hu <;> cases hu
    next hc => exact .kload _ _ (by omega)
  | conv d src k degain saturate corrected =>
    refine ⟨.ok (s.setBuf d (convolved (s.buf src) (s.ker k) degain saturate corrected)), rfl, fun u hu => ?_⟩
    cases hu; exact .conv _ _ _ _ _ _
  | diff d a b corrected =>
    refine ⟨_, rfl, fun u hu => ?_⟩
    split at hu <;> cases hu
    next hc => exact .diff _ _ _ _ (by tauto) (by tauto)
  | scaledown d src =>
    refine ⟨_, rfl, fun u hu => ?_⟩
    split at hu <;> cases hu
    next hc => exact .scaledown _ _ (by omega)
  | pack r g b a =>
    refine ⟨_, rfl, fun u hu => ?_⟩
    split at hu <;> cases hu
    next hc =>
      simp only [Bool.and_eq_true] at hc
      exact .pack _ _ _ _ hc.1.1 hc.1.2 hc.2
  | unpack r g b a =>
    refine ⟨_, rfl, fun u hu => ?_⟩
    split at hu <;> cases hu
    next hd => exact .unpack _ _ _ _ _ _ hd

/-- A well-formed command whose `Effect` is `u` completes with it: the converse of `exec_cases`. -/
theorem exec_of_effect {i : Instr} {s u : State} (hw : i.wellFormed s.params = true) (h : Effect s i u) :
    exec i s = .next (u.complete .ok) := by
  cases h with
  | nop => exact command_ok s hw
  | create d w h hd => simp only [exec, execCreate, hd, command_ok _ hw]
  | release d => exact command_ok (s.setBuf d (newBuf 0 0)) hw
  | get src => simp only [exec, execGet, command_ok _ hw]
  | set d => simp only [exec, execSet, command_ok _ hw]
  | fill d => simp only [exec, execFill, command_ok _ hw]
  | kload k src hc => simp only [exec, execKload, if_neg (not_lt.mpr hc), command_ok _ hw]
  | conv d src k degain saturate corrected => simp only [exec, execConv, command_ok _ hw]
  | diff d a b corrected hw' hh =>
    have hn : ¬((s.buf a).width ≠ (s.buf b).width ∨ (s.buf a).height ≠ (s.buf b).height) := by tauto
    simp only [exec, execDiff, if_neg hn, command_ok _ hw]
  | scaledown d src hn => simp only [exec, execScaledown, if_neg (not_le.mpr hn), command_ok _ hw]
  | pack r g b a hg hb ha => simp [exec, execPack, hg, hb, ha, command_ok _ hw]
  | unpack r g b a w h hd => simp only [exec, execUnpack, hd, command_ok _ hw]

/-- The checks that a well-formed command's pseudocode makes before any effect, with the error each one raises (R183). -/
inductive Rejects (s : State) : Instr → ErrorCode → Prop
  | createDims (d : Slot) (e : ErrorCode)
      (hd : checkedDims s.params (signedOperand s.operand0) (signedOperand s.operand1) = .error e) :
      Rejects s (.create d) e
  | unpackDims (r g b a : Slot) (e : ErrorCode)
      (hd : checkedDims s.params (signedOperand s.operand0) (signedOperand s.operand1) = .error e) :
      Rejects s (.unpack r g b a) e
  | kload (k src : Slot) (hc : s.params.kmaxTaps < (s.buf src).width * (s.buf src).height) :
      Rejects s (.kload k src) .capacityExceeded
  | diff (d a b : Slot) (corrected : Bool)
      (hs : (s.buf a).width ≠ (s.buf b).width ∨ (s.buf a).height ≠ (s.buf b).height) :
      Rejects s (.diff d a b corrected) .dimensionMismatch
  | scaledown (d src : Slot) (hn : signedOperand s.operand0 ≤ 1) : Rejects s (.scaledown d src) .invalidArgument
  | pack (r g b a : Slot)
      (hs : ((s.buf g).sameShape (s.buf r) && (s.buf b).sameShape (s.buf r) && (s.buf a).sameShape (s.buf r)) = false) :
      Rejects s (.pack r g b a) .dimensionMismatch

/-- A well-formed command that its checks reject completes with the error and changes nothing else (R180, R183). -/
theorem exec_of_rejects {i : Instr} {s : State} {e : ErrorCode} (hw : i.wellFormed s.params = true)
    (h : Rejects s i e) : exec i s = .next (s.complete e) := by
  cases h with
  | createDims d _ hd => simp only [exec, execCreate, hd, command_error _ hw]
  | unpackDims r g b a _ hd => simp only [exec, execUnpack, hd, command_error _ hw]
  | kload k src hc => simp only [exec, execKload, gt_iff_lt, if_pos hc, command_error _ hw]
  | diff d a b corrected hs => simp only [exec, execDiff, if_pos hs, command_error _ hw]
  | scaledown d src hn => simp only [exec, execScaledown, if_pos hn, command_error _ hw]
  | pack r g b a hs => simp [exec, execPack, hs, command_error _ hw]

/-- Every well-formed command has its effect or is rejected by one of its checks. -/
theorem effect_or_rejects (i : Instr) (s : State) : (∃ u, Effect s i u) ∨ ∃ e, Rejects s i e := by
  have dims : (∃ w h, checkedDims s.params (signedOperand s.operand0) (signedOperand s.operand1) = .ok (w, h)) ∨
      ∃ e, checkedDims s.params (signedOperand s.operand0) (signedOperand s.operand1) = .error e := by
    cases checkedDims s.params (signedOperand s.operand0) (signedOperand s.operand1) with
    | error e => exact .inr ⟨e, rfl⟩
    | ok p => exact .inl ⟨p.1, p.2, rfl⟩
  cases i with
  | nop => exact .inl ⟨_, .nop⟩
  | create d =>
    rcases dims with ⟨w, h, hd⟩ | ⟨e, hd⟩
    · exact .inl ⟨_, .create d w h hd⟩
    · exact .inr ⟨e, .createDims d e hd⟩
  | release d => exact .inl ⟨_, .release d⟩
  | get src => exact .inl ⟨_, .get src⟩
  | set d => exact .inl ⟨_, .set d⟩
  | fill d => exact .inl ⟨_, .fill d⟩
  | kload k src =>
    by_cases hc : s.params.kmaxTaps < (s.buf src).width * (s.buf src).height
    · exact .inr ⟨_, .kload k src hc⟩
    · exact .inl ⟨_, .kload k src (not_lt.mp hc)⟩
  | conv d src k degain saturate corrected => exact .inl ⟨_, .conv d src k degain saturate corrected⟩
  | diff d a b corrected =>
    by_cases hs : (s.buf a).width ≠ (s.buf b).width ∨ (s.buf a).height ≠ (s.buf b).height
    · exact .inr ⟨_, .diff d a b corrected hs⟩
    · exact .inl ⟨_, .diff d a b corrected (by tauto) (by tauto)⟩
  | scaledown d src =>
    by_cases hn : signedOperand s.operand0 ≤ 1
    · exact .inr ⟨_, .scaledown d src hn⟩
    · exact .inl ⟨_, .scaledown d src (not_le.mp hn)⟩
  | pack r g b a =>
    cases hs : ((s.buf g).sameShape (s.buf r) && (s.buf b).sameShape (s.buf r) && (s.buf a).sameShape (s.buf r)) with
    | false => exact .inr ⟨_, .pack r g b a hs⟩
    | true =>
      simp only [Bool.and_eq_true] at hs
      exact .inl ⟨_, .pack r g b a hs.1.1 hs.1.2 hs.2⟩
  | unpack r g b a =>
    rcases dims with ⟨w, h, hd⟩ | ⟨e, hd⟩
    · exact .inl ⟨_, .unpack r g b a w h hd⟩
    · exact .inr ⟨e, .unpackDims r g b a e hd⟩

/-- Everything a command can do: complete with an error, the rest unchanged, or have its effect and complete. -/
theorem exec_cases {i : Instr} {s t : State} (h : exec i s = .next t) :
    (∃ e, t = s.complete e) ∨ ∃ u, i.wellFormed s.params = true ∧ Effect s i u ∧ t = u.complete .ok := by
  obtain ⟨eff, he, heff⟩ := exec_eq_command i s
  rw [he] at h
  rcases command_next_iff.mp h with ⟨-, rfl⟩ | ⟨-, e, -, rfl⟩ | ⟨hw, u, hu, rfl⟩
  · exact .inl ⟨_, rfl⟩
  · exact .inl ⟨_, rfl⟩
  · exact .inr ⟨u, hw, heff u hu, rfl⟩

/-- Every command completes: it never stops (60_exceptions.md R186). -/
theorem exec_is_next (i : Instr) (s : State) : ∃ t, exec i s = .next t := by
  obtain ⟨eff, he, -⟩ := exec_eq_command i s
  rw [he]
  rcases command_cases i s eff with ⟨-, h⟩ | ⟨-, e, -, h⟩ | ⟨-, u, -, h⟩ <;> exact ⟨_, h⟩

/-- A command with a slot out of range is illegal (30_encoding.md R92, R94). -/
theorem exec_illegal {i : Instr} {s : State} (h : i.wellFormed s.params = false) :
    exec i s = .next (s.complete .illegalCommand) := by
  obtain ⟨eff, he, -⟩ := exec_eq_command i s
  rw [he, command_illegal eff h]

end Sys2Proof.Machine
end

