-- ==== Sys2Proof/Laws/Memory.lean ====
section
/-! SUPPORT. Packed memory: a read after a write, and that every memory operation keeps the canonical form. -/

namespace Sys2Proof.Machine

@[simp] theorem Memory.read_nil (a : Nat) : Memory.read [] a = none := rfl

theorem Memory.read_write_self (m : Memory) (a : Nat) (v : Byte) : (m.write a v).read a = some v := by
  induction m with
  | nil => simp [Memory.write, Memory.read]
  | cons c m ih =>
    obtain ⟨k, b⟩ := c
    simp only [Memory.write]
    split
    · simp [Memory.read]
    · split
      · simp [Memory.read]
      · next h => simp [Memory.read, Ne.symm h, ih]

theorem Memory.read_write_ne (m : Memory) {a a' : Nat} (v : Byte) (h : a' ≠ a) :
    (m.write a v).read a' = m.read a' := by
  induction m with
  | nil => simp [Memory.write, Memory.read, Ne.symm h, Memory.unlisted]
  | cons c m ih =>
    obtain ⟨k, b⟩ := c
    simp only [Memory.write]
    split
    · simp [Memory.read, Ne.symm h]
    · split
      · next hk => subst hk; simp [Memory.read, Ne.symm h]
      · simp only [Memory.read, ih]

theorem Memory.read_write (m : Memory) (a a' : Nat) (v : Byte) :
    (m.write a v).read a' = if a' = a then some v else m.read a' := by
  split
  · next h => rw [h, Memory.read_write_self]
  · next h => exact Memory.read_write_ne m v h

/-- The addresses a write lists: the ones listed before, and its own. -/
theorem Memory.mem_write_addr {m : Memory} {a : Nat} {v : Byte} {c : Host.Cell} (h : c ∈ m.write a v) :
    c = (a, v) ∨ c ∈ m := by
  induction m with
  | nil => simpa [Memory.write] using h
  | cons d m ih =>
    obtain ⟨k, b⟩ := d
    simp only [Memory.write] at h
    split at h
    · simpa using h
    · split at h
      · rcases List.mem_cons.mp h with h | h
        · exact .inl h
        · exact .inr (List.mem_cons_of_mem _ h)
      · rcases List.mem_cons.mp h with h | h
        · exact .inr (h ▸ List.mem_cons_self)
        · rcases ih h with h | h
          · exact .inl h
          · exact .inr (List.mem_cons_of_mem _ h)

theorem Memory.wf_write {m : Memory} (a : Nat) (v : Byte) (h : m.wf) : (m.write a v).wf := by
  induction m with
  | nil => simp [Memory.write, Memory.wf]
  | cons c m ih =>
    obtain ⟨k, b⟩ := c
    obtain ⟨hk, hm⟩ := List.pairwise_cons.mp h
    simp only [Memory.write]
    split
    · next hak =>
      refine List.pairwise_cons.mpr ⟨fun c hc => ?_, h⟩
      rcases List.mem_cons.mp hc with rfl | hc
      · exact hak
      · exact lt_trans hak (hk c hc)
    · split
      · next _ hak => subst hak; exact List.pairwise_cons.mpr ⟨hk, hm⟩
      · next h₁ h₂ =>
        refine List.pairwise_cons.mpr ⟨fun c hc => ?_, ih hm⟩
        rcases Memory.mem_write_addr hc with rfl | hc
        · show k < a; omega
        · exact hk c hc

theorem Memory.wf_writeLE {m : Memory} (a n : Nat) (v : Word) (h : m.wf) : (m.writeLE a n v).wf := by
  induction n generalizing m a v with
  | zero => exact h
  | succ n ih => exact ih _ _ (Memory.wf_write _ _ h)

theorem Memory.wf_writePixel {m : Memory} (i : Nat) (w : Word) (h : m.wf) : (m.writePixel i w).wf :=
  Memory.wf_writeLE _ _ _ h

/-- Every address a multi-byte write lists was listed before or is one of its `n` bytes. -/
theorem Memory.mem_writeLE_addr {m : Memory} {a n : Nat} {v : Word} {c : Host.Cell} (h : c ∈ m.writeLE a n v) :
    (a ≤ c.1 ∧ c.1 < a + n) ∨ c ∈ m := by
  induction n generalizing m a v with
  | zero => exact .inr h
  | succ n ih =>
    rcases ih h with h | h
    · left; omega
    · rcases Memory.mem_write_addr h with rfl | h
      · left; simp
      · exact .inr h

/-- What a multi-byte write can do to one byte: byte `j` of the value at `a + j`, and nothing elsewhere. -/
theorem Memory.read_writeLE (m : Memory) (a n : Nat) (v : Word) (a' : Nat) :
    (m.writeLE a n v).read a' =
      if a ≤ a' ∧ a' < a + n then some (v.extractLsb' (8 * (a' - a)) 8) else m.read a' := by
  induction n generalizing m a v with
  | zero => simp [Memory.writeLE]
  | succ n ih =>
    rw [Memory.writeLE, ih]
    by_cases h₁ : a + 1 ≤ a' ∧ a' < a + 1 + n
    · rw [if_pos h₁, if_pos (by omega)]
      congr 1
      apply BitVec.eq_of_getLsbD_eq
      intro i hi
      simp only [BitVec.getLsbD_extractLsb', BitVec.getLsbD_ushiftRight]
      congr 2
      omega
    · rw [if_neg h₁, Memory.read_write]
      by_cases h₂ : a' = a
      · subst h₂
        simp
      · rw [if_neg h₂, if_neg (by omega)]

theorem Memory.definedOn_iff (m : Memory) (a n : Nat) :
    m.definedOn a n = true ↔ ∀ k, k < n → (m.read (a + k)).isSome = true := by
  simp [Memory.definedOn]

end Sys2Proof.Machine
end

