-- ==== Sys2Proof/Laws/Images.lean ====
section
/-! SUPPORT. What the image operations (convolution, difference, downscale, interleaving) leave, pixel by pixel. -/

namespace Sys2Proof.Machine

/-! ## Convolution -/

@[simp] theorem convolved_width (src : Buffer) (ker : Kernel) (dg sat cor : Bool) :
    (convolved src ker dg sat cor).width = src.width := by
  unfold convolved; split <;> rfl

@[simp] theorem convolved_height (src : Buffer) (ker : Kernel) (dg sat cor : Bool) :
    (convolved src ker dg sat cor).height = src.height := by
  unfold convolved; split <;> rfl

@[simp] theorem convolved_gain (src : Buffer) (ker : Kernel) (dg sat cor : Bool) :
    (convolved src ker dg sat cor).gain = defaultGain := by
  unfold convolved; split <;> rfl

@[simp] theorem convolved_length (src : Buffer) (ker : Kernel) (dg sat cor : Bool) :
    (convolved src ker dg sat cor).samples.length = src.width * src.height := by
  unfold convolved; split <;> simp

/-- A kernel without weights writes no pixel (41_convolution.md R132). -/
theorem convolved_empty_kernel {ker : Kernel} (src : Buffer) (dg sat cor : Bool) (h : ker.width * ker.height = 0) :
    convolved src ker dg sat cor = newBuf src.width src.height := by
  rw [convolved, if_neg (by omega)]

/-- The output pixel (x, y) of a kernel with weights (R125). -/
theorem convolved_at {src : Buffer} {ker : Kernel} (dg sat cor : Bool) {x y : Nat} (h : 0 < ker.width * ker.height)
    (hx : x < src.width) (hy : y < src.height) :
    (convolved src ker dg sat cor).at (x + y * src.width) = convPixel src ker dg sat cor x y := by
  rw [convolved, if_pos h, bufferOf_at_grid _ hx hy, index_mod y hx, index_div y hx]

theorem convolved_wf {p : Params} {src : Buffer} (ker : Kernel) (dg sat cor : Bool) (h : src.wf p = true) :
    (convolved src ker dg sat cor).wf p = true := by
  rw [Buffer.wf_iff] at h ⊢
  simp only [convolved_length, convolved_width, convolved_height]
  exact ⟨trivial, h.2⟩

theorem onBorder_iff {src : Buffer} {ker : Kernel} {x y : Int} :
    onBorder src ker x y = true ↔
      y < ker.ty ∨ y > (src.height : Int) - ker.ty ∨ x < ker.tx ∨ x > (src.width : Int) - ker.tx := by
  simp [onBorder]

theorem beforeFarEdge_iff {src : Buffer} {ker : Kernel} {x y : Int} :
    beforeFarEdge src ker x y = true ↔ x < (src.width : Int) - ker.tx ∧ y < (src.height : Int) - ker.ty := by
  simp [beforeFarEdge]

/-- The tap sum in the form of the rule: over yy and xx around the pixel (R125, R129, R130). -/
theorem tapSum_eq (src : Buffer) (ker : Kernel) (cor : Bool) (x y : Int) :
    tapSum src ker cor x y = ∑ yy ∈ Finset.Icc (-(ker.ty : Int)) ker.ty, ∑ xx ∈ Finset.Icc (-(ker.tx : Int)) ker.tx,
      (if cor then src.get (x + xx) (y + yy) else src.get x y).toInt * (ker.get (xx + ker.tx) (yy + ker.ty)).toInt := by
  rw [sum_Icc_shift, tapSum]
  refine sumRange_congr fun j _ => ?_
  rw [sum_Icc_shift]
  refine sumRange_congr fun i _ => ?_
  simp only [tapSample, sub_add_cancel]

/-- The kernel KLOAD builds meets the kernel invariant (R35, R37). -/
theorem kernelOf_wf {p : Params} {b : Buffer} (hb : b.wf p = true) (hc : b.width * b.height ≤ p.kmaxTaps) :
    (kernelOf b).wf p = true := by
  rw [Buffer.wf_iff] at hb
  rw [Kernel.wf_iff]
  exact ⟨hb.1, hc, hb.2.2.1, hb.2.2.2, rfl⟩

/-! ## Difference -/

theorem difference_at {a : Buffer} (cor : Bool) (b : Buffer) {i : Nat} (hi : i < a.width * a.height) :
    (difference cor a b).at i = diffSample cor (a.at i) (b.at i) := bufferOf_at _ hi

theorem difference_wf {p : Params} {a : Buffer} (cor : Bool) (b : Buffer) (h : a.wf p = true) :
    (difference cor a b).wf p = true := by
  rw [Buffer.wf_iff] at h
  exact bufferOf_wf _ h.2.1 h.2.2.1 h.2.2.2

/-- The literal variant's wide clamp changes no sample (42_difference.md R147). -/
theorem diffSample_literal (a b : Sample) : diffSample false a b = a := by
  have h := sample_range a
  rw [diffSample, if_neg (by decide), clamp_eq_self (by omega) (by omega), ofInt16_toInt]

theorem toInt_diffSample_corrected (a b : Sample) :
    (diffSample true a b).toInt = clamp (a.toInt - b.toInt) (-32767) 32767 := by
  rw [diffSample, if_pos rfl]
  have h₁ := le_clamp (v := a.toInt - b.toInt) (lo := -32767) (hi := 32767) (by decide)
  have h₂ := clamp_le (v := a.toInt - b.toInt) (lo := -32767) (hi := 32767) (by decide)
  exact toInt_ofInt16 (by omega) h₂

/-! ## Downscale -/

theorem downscaled_at {src : Buffer} {n x y : Nat} (hx : x < src.width / n) (hy : y < src.height / n) :
    (downscaled src n).at (x + y * (src.width / n)) = BitVec.ofInt 16 (tdiv (blockSum src n x y) ((n : Int) * n)) := by
  rw [downscaled, bufferOf_at_grid _ hx hy, index_mod y hx, index_div y hx]

theorem downscaled_wf {p : Params} {src : Buffer} (n : Nat) (h : src.wf p = true) :
    (downscaled src n).wf p = true := by
  rw [Buffer.wf_iff] at h
  have hw := Nat.div_le_self src.width n
  have hh := Nat.div_le_self src.height n
  exact bufferOf_wf _ (le_trans (Nat.mul_le_mul hw hh) h.2.1) (by omega) (by omega)

/-- A block sum lies between `n*n` times the bounds of the samples it reads. -/
theorem blockSum_between {src : Buffer} {n x y : Nat} {lo hi : Int}
    (h : ∀ xx yy : Nat, xx < n → yy < n → lo ≤ (src.get ((x * n + xx : Nat) : Int) ((y * n + yy : Nat) : Int)).toInt ∧
      (src.get ((x * n + xx : Nat) : Int) ((y * n + yy : Nat) : Int)).toInt ≤ hi) :
    lo * ((n : Int) * n) ≤ blockSum src n x y ∧ blockSum src n x y ≤ hi * ((n : Int) * n) := by
  have := sumRange_between (n := n) (lo := lo * n) (hi := hi * n) fun yy hyy =>
    sumRange_between (n := n) fun xx hxx => h xx yy hxx hyy
  rw [mul_assoc, mul_assoc] at this
  exact this

/-! ## Interleaving -/

theorem Buffer.sameShape_iff {a b : Buffer} : a.sameShape b = true ↔ a.width = b.width ∧ a.height = b.height := by
  simp [Buffer.sameShape]

/-- The lanes of a packed pixel, in the byte order of packed memory (44_channel_pack.md R162, 20_memory.md R67). -/
theorem packedPixel_lanes (r g b a : Sample) :
    (packedPixel r g b a).extractLsb' 0 8 = c8 r ∧ (packedPixel r g b a).extractLsb' 8 8 = c8 g ∧
      (packedPixel r g b a).extractLsb' 16 8 = c8 b ∧ (packedPixel r g b a).extractLsb' 24 8 = c8 a := by
  unfold packedPixel
  generalize c8 r = r'; generalize c8 g = g'; generalize c8 b = b'; generalize c8 a = a'
  refine ⟨?_, ?_, ?_, ?_⟩ <;>
    (apply BitVec.eq_of_getLsbD_eq; intro i hi
     simp only [BitVec.getLsbD_extractLsb', BitVec.getLsbD_append]
     interval_cases i <;> simp)

/-- What interleaving does to one byte: lane `addr mod 4` of pixel `addr div 4` below `4*n`, and nothing above. -/
theorem interleaved_read (m : Memory) (r g b a : Buffer) (n addr : Nat) :
    (interleaved m r g b a n).read addr =
      if addr < 4 * n then
        some ((packedPixel (r.at (addr / 4)) (g.at (addr / 4)) (b.at (addr / 4)) (a.at (addr / 4))).extractLsb'
          (8 * (addr % 4)) 8)
      else m.read addr := by
  induction n with
  | zero => simp [interleaved]
  | succ n ih =>
    have hs : interleaved m r g b a (n + 1) = (interleaved m r g b a n).writePixel n
        (packedPixel (r.at n) (g.at n) (b.at n) (a.at n)) := by
      simp [interleaved, List.range_succ]
    rw [hs, Memory.writePixel, Memory.read_writeLE, ih]
    by_cases h : 4 * n ≤ addr ∧ addr < 4 * n + 4
    · have hq : addr / 4 = n := by omega
      have hr : addr - 4 * n = addr % 4 := by omega
      rw [if_pos h, if_pos (by omega), hq, hr]
    · rw [if_neg h]
      by_cases h' : addr < 4 * n
      · rw [if_pos h', if_pos (by omega)]
      · rw [if_neg h', if_neg (by omega)]

theorem interleaved_packedWf {p : Params} {m : Memory} (r g b a : Buffer) {n : Nat} (hn : n ≤ p.slotWords)
    (h : packedWf p m) : packedWf p (interleaved m r g b a n) := by
  induction n with
  | zero => exact h
  | succ n ih =>
    have hs : interleaved m r g b a (n + 1) = (interleaved m r g b a n).writePixel n
        (packedPixel (r.at n) (g.at n) (b.at n) (a.at n)) := by
      simp [interleaved, List.range_succ]
    obtain ⟨hw, hl⟩ := ih (by omega)
    rw [hs]
    refine ⟨Memory.wf_writePixel _ _ hw, fun c hc => ?_⟩
    rcases Memory.mem_writeLE_addr hc with hc | hc
    · omega
    · exact hl c hc

/-- A lane plane's sample: the lane's byte, zero-extended (44_channel_pack.md R166, R168). -/
theorem lanePlane_at (s : State) {w h j i : Nat} (hi : i < w * h) :
    (lanePlane s w h j).at i = (s.packedByte (4 * i + j)).setWidth 16 := bufferOf_at _ hi

/-- A defined byte is read as it stands (10_state.md R39). -/
theorem State.packedByte_of_read {s : State} {a : Nat} {v : Byte} (h : s.pm.read a = some v) : s.packedByte a = v := by
  simp [State.packedByte, h]

end Sys2Proof.Machine
end

