-- ==== Sys2Proof/Laws/Step.lean ====
section
/-! SUPPORT. What a step can do, and what a host access can do. -/

namespace Sys2Proof.Machine

/-- Everything a step can do: run the command in flight, or the host's next move. -/
theorem step_cases (s : State) :
    (∃ c, s.inFlight = some c ∧ s.hostLands c = false ∧ step s = runWord c.word s) ∨
    ((s.inFlight = none ∨ ∃ c, s.inFlight = some c ∧ s.hostLands c = true) ∧ step s = hostStep s) := by
  unfold step
  cases hi : s.inFlight with
  | none => exact .inr ⟨.inl rfl, rfl⟩
  | some c =>
    cases hl : s.hostLands c with
    | false => exact .inl ⟨c, rfl, hl, by simp [hl]⟩
    | true => exact .inr ⟨.inr ⟨c, rfl, hl⟩, by simp [hl]⟩

/-- Running a word ends in the completion of an illegal command or in `exec` of the instruction it decodes to. -/
theorem runWord_cases (w : Word) (s : State) :
    (∃ e, decode s.params w = .error e ∧ runWord w s = .next (s.complete .illegalCommand)) ∨
    ∃ i, decode s.params w = .ok i ∧ runWord w s = exec i s := by
  unfold runWord
  cases hd : decode s.params w with
  | error e => exact .inl ⟨e, rfl, rfl⟩
  | ok i => exact .inr ⟨i, rfl, rfl⟩

/-- A host step with a move queued makes it. -/
theorem hostStep_cons {s : State} {m : HostMove} {rest : List HostMove} (hq : s.hostQueue = m :: rest) :
    hostStep s = hostMove m (s.takeMove rest) := by
  rw [hostStep, hq]

/-- Everything a host step that goes on can do: nothing, reset, release, or an access that reached the block. -/
theorem hostStep_cases {s t : State} (h : hostStep s = .next t) :
    (s.hostQueue = [] ∧ t = s) ∨
    ∃ m rest, s.hostQueue = m :: rest ∧
      ((m = .assertReset ∧ t = (s.takeMove rest).underReset) ∨
       (m = .releaseReset ∧ t = { s.takeMove rest with resetAsserted := false }) ∨
       ∃ a, m = .access a ∧ s.resetAsserted = false ∧ a.inAperture s.params = true ∧
         t = (s.takeMove rest).access a) := by
  unfold hostStep at h
  cases hq : s.hostQueue with
  | nil =>
    rw [hq] at h
    cases h
    exact .inl ⟨rfl, rfl⟩
  | cons m rest =>
    rw [hq] at h
    refine .inr ⟨m, rest, rfl, ?_⟩
    cases m with
    | assertReset => cases h; exact .inl ⟨rfl, rfl⟩
    | releaseReset => cases h; exact .inr (.inl ⟨rfl, rfl⟩)
    | access a =>
      simp only [hostMove] at h
      split at h
      · cases h
      · next hr =>
        split at h
        · next ha => cases h; exact .inr (.inr ⟨a, rfl, by simpa using hr, ha, rfl⟩)
        · cases h

/-- Everything an access can do: be refused, read, or write. -/
theorem State.access_cases (s : State) (a : Access) :
    (legalAt a.size (a.offset s.params) = false ∧ s.access a = s.refuseAccess) ∨
    (legalAt a.size (a.offset s.params) = true ∧ a.kind = .read ∧ s.access a =
      (s.afterRead a.size (a.offset s.params)).addReply (.data (s.readData a.size (a.offset s.params)))) ∨
    ∃ v, legalAt a.size (a.offset s.params) = true ∧ a.kind = .write v ∧
      s.access a = (s.afterWrite a.size (a.offset s.params) v).addReply .written := by
  unfold State.access
  cases hl : legalAt a.size (a.offset s.params) with
  | false => exact .inl ⟨rfl, by simp⟩
  | true =>
    cases hk : a.kind with
    | read => exact .inr (.inl ⟨rfl, rfl, by simp⟩)
    | write v => exact .inr (.inr ⟨v, rfl, rfl, by simp⟩)

/-- A read changes nothing but, where it covers an undefined byte, the number of the next draw (20_memory.md R73). -/
theorem State.afterRead_cases (s : State) (size : AccessSize) (off : Nat) :
    s.afterRead size off = s ∨ s.afterRead size off = { s with draws := s.draws + 1 } := by
  unfold State.afterRead State.afterPackedRead
  split
  · split
    · exact .inl rfl
    · exact .inr rfl
  · exact .inl rfl

/-- Everything a write in the register region can do (20_memory.md R60 to R64). -/
theorem State.writeReg_cases (s : State) (off : Nat) (v : Word) :
    s.writeReg off v = s ∨ s.writeReg off v = s.accept v ∨ s.writeReg off v = { s with arg0 := v } ∨
      s.writeReg off v = { s with arg1 := v } ∨ s.writeReg off v = { s with arg2 := v } ∨
      s.writeReg off v = s.writeStatus v ∨ ∃ d, s.writeReg off v = s.writeBufGain d v := by
  unfold State.writeReg
  cases regTarget s.params off with
  | control r => cases r <;> simp [State.writeControl]
  | buffer d f =>
    cases f with
    | width => exact .inl rfl
    | height => exact .inl rfl
    | gain => exact .inr (.inr (.inr (.inr (.inr (.inr ⟨d, rfl⟩)))))
  | kernel k f => simp
  | reserved => simp

/-- Everything a legal write can do. -/
theorem State.afterWrite_cases (s : State) (size : AccessSize) (off : Nat) (v : Word) :
    (off < packedBase ∧ s.afterWrite size off v = s.writeReg off v) ∨
    (inPackedWindow s.params off = true ∧
      s.afterWrite size off v = { s with pm := s.pm.writeLE (off - packedBase) size.bytes v }) ∨
    s.afterWrite size off v = s := by
  unfold State.afterWrite
  split
  · next h => exact .inl ⟨h, rfl⟩
  · split
    · next h => exact .inr (.inl ⟨h, rfl⟩)
    · exact .inr (.inr rfl)

/-- The bytes of a legal access in the packed window lie in packed memory (20_memory.md R66, R70). -/
theorem legal_bytes_within {p : Params} {size : AccessSize} {off : Nat} (hl : legalAt size off = true)
    (hw : inPackedWindow p off = true) : off - packedBase + size.bytes ≤ 4 * p.slotWords := by
  simp only [inPackedWindow, decide_eq_true_eq] at hw
  have hn : ¬off < packedBase := by omega
  simp only [legalAt, hn, if_false, decide_eq_true_eq] at hl
  have hp : packedBase = 0x100000 := rfl
  cases size <;> simp only [AccessSize.bytes] at hl ⊢ <;> omega

end Sys2Proof.Machine
end

