-- ==== Sys2Proof/Laws/Bus.lean ====
section
/-! SUPPORT. The register map, a packed read bit by bit, one host write, and a run of `core` step by step. -/

namespace Sys2Proof.Machine

/-! ## The register map -/

theorem descSlot_buf (d : Slot) (f : Nat) (hf : f < 16) : descSlotAt (0x100 + 0x10 * d.val + f) = d := by
  apply Fin.ext; simp only [descSlotAt]; have := d.isLt; omega

theorem descSlot_ker (d : Slot) (f : Nat) (hf : f < 16) : descSlotAt (0x200 + 0x10 * d.val + f) = d := by
  apply Fin.ext; simp only [descSlotAt]; have := d.isLt; omega

theorem descWord_mod {off f : Nat} (h : off % 16 = f) : descWordAt off = descWordAt f := by
  unfold descWordAt; rw [← h, Nat.mod_mod]

/-- What stands in the buffer descriptors (20_memory.md R61). -/
theorem regTarget_buffer (p : Params) (d : Slot) (f : Nat) (hf : f < 16) :
    regTarget p (0x100 + 0x10 * d.val + f) =
      (match descWordAt f with
        | some g => if p.bufferSlotOk d then .buffer d g else .reserved
        | none => .reserved) := by
  have hd := d.isLt
  have h₁ : ¬0x100 + 0x10 * d.val + f < 0x100 := by omega
  have hw : descWordAt (0x100 + 0x10 * d.val + f) = descWordAt f := descWord_mod (by omega)
  have h₂ : 0x100 + 0x10 * d.val + f < 0x200 := by omega
  cases hc : descWordAt f <;>
    simp only [regTarget, h₁, h₂, if_false, if_true, hw, hc, descSlot_buf d f hf]

/-- What stands in the kernel descriptors (20_memory.md R62). -/
theorem regTarget_kernel (p : Params) (d : Slot) (f : Nat) (hf : f < 16) :
    regTarget p (0x200 + 0x10 * d.val + f) =
      (match descWordAt f with
        | some g => if p.kernelSlotOk d then .kernel d g else .reserved
        | none => .reserved) := by
  have hd := d.isLt
  have h₁ : ¬0x200 + 0x10 * d.val + f < 0x100 := by omega
  have hw : descWordAt (0x200 + 0x10 * d.val + f) = descWordAt f := descWord_mod (by omega)
  have h₂ : ¬0x200 + 0x10 * d.val + f < 0x200 := by omega
  have h₃ : 0x200 + 0x10 * d.val + f < 0x300 := by omega
  cases hc : descWordAt f <;>
    simp only [regTarget, h₁, h₂, h₃, if_false, if_true, hw, hc, descSlot_ker d f hf]

/-! ## Addresses and legal accesses -/

/-- An address inside the 2 MiB aperture, by its bounds (20_memory.md R59). -/
theorem Access.inAperture_iff {p : Params} {a : Access} :
    a.inAperture p = true ↔ p.apertureBase ≤ a.addr ∧ a.addr < p.apertureBase + 0x200000 := by
  unfold Access.inAperture apertureBytes
  exact decide_eq_true_iff

theorem Access.offset_of_addr {p : Params} {a : Access} {off : Nat} (h : a.addr = p.apertureBase + off) :
    a.offset p = off := by
  simp [Access.offset, h]

theorem AccessSize.bytes_of_mem {size : AccessSize} {n : Nat}
    (h : (size, n) ∈ [(AccessSize.byte, 1), (.half, 2), (.word, 4)]) : size.bytes = n := by
  cases size <;> simp_all [AccessSize.bytes]

/-- The legal accesses, in numbers: naturally aligned, and 32 bits wide in the register region (20_memory.md R69, R70). -/
theorem legalAt_iff {size : AccessSize} {n off : Nat} (h : (size, n) ∈ [(AccessSize.byte, 1), (.half, 2), (.word, 4)]) :
    legalAt size off = true ↔ off % n = 0 ∧ (off < 0x100000 → size = .word) := by
  simp only [legalAt, AccessSize.bytes_of_mem h, show packedBase = 0x100000 from rfl]
  split
  · next ho => cases size <;> simp_all
  · next ho => simp [ho]

/-! ## Packed reads -/

/-- Bit `i` of a packed read is bit `i mod 8` of its byte `i div 8` (20_memory.md R67, R70). -/
theorem State.packedLE_getLsbD (s : State) (a n : Nat) : ∀ i, i < 32 →
    (s.packedLE a n).getLsbD i = (decide (i < 8 * n) && (s.packedByte (a + i / 8)).getLsbD (i % 8)) := by
  induction n generalizing a with
  | zero => intro i _; simp [State.packedLE]
  | succ n ih =>
    intro i hi
    rw [State.packedLE, BitVec.getLsbD_or, BitVec.getLsbD_setWidth, BitVec.getLsbD_shiftLeft]
    by_cases h8 : i < 8
    · have : i / 8 = 0 := by omega
      have hm : i % 8 = i := by omega
      rw [this, hm]
      simp [h8, hi]; omega
    · have hd : a + 1 + (i - 8) / 8 = a + i / 8 := by omega
      have hm : (i - 8) % 8 = i % 8 := by omega
      rw [BitVec.getLsbD_of_ge _ i (by omega), ih (a + 1) (i - 8) (by omega), hd, hm]
      simp [h8, hi]
      by_cases h : i < 8 * (n + 1)
      · simp [h, show i - 8 < 8 * n by omega]
      · simp [h, show ¬ i - 8 < 8 * n by omega]

/-- A packed read of `n` bytes is below `2^(8*n)`. -/
theorem State.packedLE_lt (s : State) (a n : Nat) : (s.packedLE a n).toNat < 2 ^ (8 * n) := by
  refine Nat.lt_pow_two_of_testBit _ fun i hi => ?_
  rw [← BitVec.getLsbD]
  by_cases h : i < 32
  · rw [State.packedLE_getLsbD s a n i h, decide_eq_false (by omega), Bool.false_and]
  · exact BitVec.getLsbD_of_ge _ i (by omega)

/-! ## Steps -/

/-- Running a word completes: it never stops, and it leaves the host's moves and replies. -/
theorem runWord_next (w : Word) (s : State) : ∃ t, runWord w s = .next t ∧ t.inFlight = none ∧
    t.hostQueue = s.hostQueue ∧ t.replies = s.replies := by
  rcases runWord_cases w s with ⟨e, -, h⟩ | ⟨i, -, h⟩
  · exact ⟨_, h, rfl, rfl, rfl⟩
  · obtain ⟨t, ht⟩ := exec_is_next i s
    refine ⟨t, h.trans ht, ?_⟩
    rcases exec_cases ht with ⟨e, rfl⟩ | ⟨u, -, hu, rfl⟩
    · exact ⟨rfl, rfl, rfl⟩
    · cases hu <;> simp

/-- With no command in flight the host moves. -/
theorem step_of_idle {s : State} (hi : s.inFlight = none) : step s = hostStep s := by simp [step, hi]

/-- With no command in flight there is no slack to use, and a move taken leaves the rest of the queue. -/
theorem State.takeMove_of_idle {s : State} (rest : List HostMove) (hi : s.inFlight = none) :
    s.takeMove rest = { s with hostQueue := rest } := by
  unfold State.takeMove State.useSlack
  rw [hi]
  rfl

/-- One 32-bit host write in the register region, with no command in flight (20_memory.md R65, R69). -/
theorem step_wr {s : State} {off : Nat} {v : Word} {rest : List HostMove} (hi : s.inFlight = none)
    (hr : s.resetAsserted = false) (hq : s.hostQueue = wr s.params off v :: rest) (ho : off < 0x100000)
    (h4 : off % 4 = 0) : step s = .next (((s.takeMove rest).writeReg off v).addReply .written) := by
  rw [step_of_idle hi, hostStep_cons hq]
  have ha : ({ addr := s.params.apertureBase + off, size := .word, kind := .write v } : Access).inAperture s.params = true := by
    simp [Access.inAperture, apertureBytes]; omega
  have hof : ({ addr := s.params.apertureBase + off, size := .word, kind := .write v } : Access).offset s.params = off := by
    simp [Access.offset]
  simp only [wr, hostMove, State.takeMove_resetAsserted, hr, State.takeMove_params, ha, if_true]
  rw [if_neg (by decide)]
  congr 1
  have hl : legalAt .word off = true := by
    unfold legalAt; rw [if_pos (by unfold packedBase; omega)]; simp [h4]
  have hpb : off < packedBase := by unfold packedBase; omega
  simp only [State.access, State.takeMove_params, hof, hl, if_true, State.afterWrite, hpb]

theorem core_run_zero (s : State) : core.run 0 s = .next s := Host.Core.run.eq_1 core s

/-- A run whose first step goes on. -/
theorem core_run_next {k : Nat} {s s' : State} (h : step s = .next s') : core.run (k + 1) s = core.run k s' := by
  have h' : core.step s = .next s' := h
  rw [Host.Core.run.eq_2 core s k, h']

end Sys2Proof.Machine
end

