-- ==== Sys2Proof/Laws/PerInstr.lean ====
section
/-! SUPPORT. Statements made for every constructor of Instr: the encoded word lies in its row of 30_encoding.md R90, the
reserved bits and the bits the row fixes to 0 included. -/

namespace Sys2Proof.Laws.MatchesRow

/-- The `mask` of the instruction's row of R90. -/
def mask : Instr → Word
  | .nop => 0xFFFFFFFF#32
  | .create _ => 0xFFFFF0FF#32
  | .release _ => 0xFFFFF0FF#32
  | .get _ => 0xFFFFF0FF#32
  | .set _ => 0xFFFFF0FF#32
  | .fill _ => 0xFFFFF0FF#32
  | .kload _ _ => 0xFFFF00FF#32
  | .conv _ _ _ _ _ _ => 0xF8F000FF#32
  | .diff _ _ _ _ => 0xFBF000FF#32
  | .scaledown _ _ => 0xFFFF00FF#32
  | .pack _ _ _ _ => 0xFF0000FF#32
  | .unpack _ _ _ _ => 0xFF0000FF#32

/-- The `match` of the instruction's row of R90. -/
def pattern : Instr → Word
  | .nop => 0x00000000#32
  | .create _ => 0x00000001#32
  | .release _ => 0x00000002#32
  | .get _ => 0x00000003#32
  | .set _ => 0x00000004#32
  | .fill _ => 0x00000005#32
  | .kload _ _ => 0x00000006#32
  | .conv _ _ _ _ _ _ => 0x00000007#32
  | .diff _ _ _ _ => 0x00000008#32
  | .scaledown _ _ => 0x04000009#32
  | .pack _ _ _ _ => 0x0000000A#32
  | .unpack _ _ _ _ => 0x0000000B#32

/-- The encoded word equals the row's `match` after AND with its `mask`. -/
def Statement (i : Instr) : Prop := encode i &&& mask i = pattern i

theorem nop : Statement .nop := by unfold Statement; decide
theorem create (d : Slot) : Statement (.create d) := by revert d; unfold Statement; decide
theorem release (d : Slot) : Statement (.release d) := by revert d; unfold Statement; decide
theorem get (src : Slot) : Statement (.get src) := by revert src; unfold Statement; decide
theorem set (d : Slot) : Statement (.set d) := by revert d; unfold Statement; decide
theorem fill (d : Slot) : Statement (.fill d) := by revert d; unfold Statement; decide

/-! The fields of a word with several of them are taken one at a time: AND with the mask removes each. -/

theorem slotA_masked : ∀ f : Slot, slotBits f 8 &&& 0xFBF000FF#32 = 0#32 ∧ slotBits f 8 &&& 0xFFFF00FF#32 = 0#32 ∧
    slotBits f 8 &&& 0xF8F000FF#32 = 0#32 ∧ slotBits f 8 &&& 0xFF0000FF#32 = 0#32 := by decide
theorem slotB_masked : ∀ f : Slot, slotBits f 12 &&& 0xFBF000FF#32 = 0#32 ∧ slotBits f 12 &&& 0xFFFF00FF#32 = 0#32 ∧
    slotBits f 12 &&& 0xF8F000FF#32 = 0#32 ∧ slotBits f 12 &&& 0xFF0000FF#32 = 0#32 := by decide
theorem slotC_masked : ∀ f : Slot, slotBits f 16 &&& 0xFBF000FF#32 = 0#32 ∧
    slotBits f 16 &&& 0xF8F000FF#32 = 0#32 ∧ slotBits f 16 &&& 0xFF0000FF#32 = 0#32 := by decide
theorem slotD_masked : ∀ f : Slot, slotBits f 20 &&& 0xFF0000FF#32 = 0#32 := by decide
theorem modes_masked : ∀ b : Bool, modeBit b 24 &&& 0xF8F000FF#32 = 0#32 ∧ modeBit b 25 &&& 0xF8F000FF#32 = 0#32 ∧
    modeBit b 26 &&& 0xF8F000FF#32 = 0#32 ∧ modeBit b 26 &&& 0xFBF000FF#32 = 0#32 := by decide

theorem or_and (a b m : Word) : (a ||| b) &&& m = (a &&& m) ||| (b &&& m) := by
  apply BitVec.eq_of_getLsbD_eq; intro i _; simp [Bool.and_or_distrib_right]

theorem kload (k src : Slot) : Statement (.kload k src) := by
  simp only [Statement, encode, mask, pattern, or_and, slotA_masked, slotB_masked]; decide
theorem conv (d src k : Slot) (degain saturate corrected : Bool) :
    Statement (.conv d src k degain saturate corrected) := by
  simp only [Statement, encode, mask, pattern, or_and, slotA_masked, slotB_masked, slotC_masked, modes_masked]; decide
theorem diff (d a b : Slot) (corrected : Bool) : Statement (.diff d a b corrected) := by
  simp only [Statement, encode, mask, pattern, or_and, slotA_masked, slotB_masked, slotC_masked, modes_masked]; decide
theorem scaledown (d src : Slot) : Statement (.scaledown d src) := by
  simp only [Statement, encode, mask, pattern, or_and, slotA_masked, slotB_masked]; decide
theorem pack (r g b a : Slot) : Statement (.pack r g b a) := by
  simp only [Statement, encode, mask, pattern, or_and, slotA_masked, slotB_masked, slotC_masked, slotD_masked]; decide
theorem unpack (r g b a : Slot) : Statement (.unpack r g b a) := by
  simp only [Statement, encode, mask, pattern, or_and, slotA_masked, slotB_masked, slotC_masked, slotD_masked]; decide

end Sys2Proof.Laws.MatchesRow
end

