-- ==== Sys2Proof/Laws/Encoding.lean ====
section
/-! SUPPORT. The fields of a command word: what placing and reading a field does, and that a row fixes the opcode. -/

namespace Sys2Proof

theorem word_and_comm (a b : Word) : a &&& b = b &&& a := BitVec.and_comm a b

/-- Masks that select parts of a word are joined by joining the masks. -/
theorem and_or_masks (w m n : Word) : (w &&& m) ||| (w &&& n) = w &&& (m ||| n) := by
  apply BitVec.eq_of_getLsbD_eq; intro i _; simp [Bool.and_or_distrib_left]

/-- Placing a slot field back where it was read selects its four bits. -/
theorem slotBits_slotField (w : Word) (lo : Nat) : slotBits (slotField w lo) lo = w &&& (0xF#32 <<< lo) := by
  apply BitVec.eq_of_getLsbD_eq
  intro i hi
  have hf : BitVec.ofNat 32 (slotField w lo).val = (w.extractLsb' lo 4).setWidth 32 := by
    apply BitVec.eq_of_toNat_eq
    simp [slotField]
  have hm : ∀ j, (0xF#32).getLsbD j = decide (j < 4) := by
    intro j
    by_cases hj : j < 4
    · interval_cases j <;> rfl
    · by_cases h32 : j < 32
      · interval_cases j <;> simp_all
      · rw [BitVec.getLsbD_of_ge (0xF#32) j (by omega), decide_eq_false hj]
  rw [slotBits, hf]
  simp only [BitVec.getLsbD_shiftLeft, BitVec.getLsbD_setWidth, BitVec.getLsbD_extractLsb', BitVec.getLsbD_and, hm]
  by_cases hlo : i < lo
  · simp [hlo]
  · have h1 : lo + (i - lo) = i := by omega
    have h2 : i - lo < 32 := by omega
    simp [hi, hlo, h1, h2, Bool.and_comm]

/-- Placing a mode bit back where it was read selects it. -/
theorem modeBit_getLsbD (w : Word) (n : Nat) : modeBit (w.getLsbD n) n = w &&& (1#32 <<< n) := by
  apply BitVec.eq_of_getLsbD_eq
  intro i hi
  have h1 : ∀ j, (1#32).getLsbD j = decide (j = 0) := by intro j; simp [BitVec.getLsbD_one]
  unfold modeBit
  simp only [BitVec.getLsbD_and, BitVec.getLsbD_shiftLeft, h1]
  by_cases hn : i = n
  · subst hn
    cases hb : w.getLsbD i <;> simp [hi]
  · have hne : (decide (i < 32) && !decide (i < n) && decide (i - n = 0)) = false := by
      by_cases h : i < n
      · simp [h]
      · have : i - n ≠ 0 := by omega
        simp [this]
    rw [hne, Bool.and_false]
    cases w.getLsbD n
    · simp
    · simp only [if_true, BitVec.getLsbD_shiftLeft, h1, hne]

/-- A row whose mask covers the opcode byte fixes the opcode. -/
theorem fieldOp_of_row {w m p : Word} (hm : m.extractLsb' 0 8 = 0xFF#8) (h : w &&& m = p) :
    fieldOp w = p.extractLsb' 0 8 := by
  have he : (w &&& m).extractLsb' 0 8 = w.extractLsb' 0 8 &&& m.extractLsb' 0 8 := by
    apply BitVec.eq_of_getLsbD_eq; intro i hi; simp [hi]
  rw [← h, he, hm, fieldOp]
  exact (BitVec.and_allOnes (x := w.extractLsb' 0 8)).symm

/-- A word of another opcode does not match the row. -/
theorem row_ne_of_fieldOp {w m p : Word} (hm : m.extractLsb' 0 8 = 0xFF#8) (h : fieldOp w ≠ p.extractLsb' 0 8) :
    ¬(w &&& m = p) := fun hr => h (fieldOp_of_row hm hr)

theorem extract_or (a b : Word) (lo n : Nat) :
    (a ||| b).extractLsb' lo n = a.extractLsb' lo n ||| b.extractLsb' lo n := by
  apply BitVec.eq_of_getLsbD_eq; intro i hi; simp [hi]

/-- The opcode of an encoded command. -/
def opcodeOf : Instr → BitVec 8
  | .nop => 0x00
  | .create _ => 0x01
  | .release _ => 0x02
  | .get _ => 0x03
  | .set _ => 0x04
  | .fill _ => 0x05
  | .kload _ _ => 0x06
  | .conv _ _ _ _ _ _ => 0x07
  | .diff _ _ _ _ => 0x08
  | .scaledown _ _ => 0x09
  | .pack _ _ _ _ => 0x0A
  | .unpack _ _ _ _ => 0x0B

theorem fieldOp_encode (i : Instr) : fieldOp (encode i) = opcodeOf i := by
  have key : Laws.MatchesRow.Statement i := by
    cases i
    · exact Laws.MatchesRow.nop
    · exact Laws.MatchesRow.create _
    · exact Laws.MatchesRow.release _
    · exact Laws.MatchesRow.get _
    · exact Laws.MatchesRow.set _
    · exact Laws.MatchesRow.fill _
    · exact Laws.MatchesRow.kload _ _
    · exact Laws.MatchesRow.conv _ _ _ _ _ _
    · exact Laws.MatchesRow.diff _ _ _ _
    · exact Laws.MatchesRow.scaledown _ _
    · exact Laws.MatchesRow.pack _ _ _ _
    · exact Laws.MatchesRow.unpack _ _ _ _
  have hm : (Laws.MatchesRow.mask i).extractLsb' 0 8 = 0xFF#8 := by cases i <;> (simp only [Laws.MatchesRow.mask]; decide)
  rw [fieldOp_of_row hm key]
  cases i <;> (simp only [Laws.MatchesRow.pattern, opcodeOf]; decide)

/-! Each field read from each placed field: itself, or nothing. -/

theorem slot_extracts : ∀ f : Slot,
    (slotBits f 8).extractLsb' 8 4 = BitVec.ofNat 4 f.val ∧ (slotBits f 8).extractLsb' 12 4 = 0 ∧
    (slotBits f 8).extractLsb' 16 4 = 0 ∧ (slotBits f 8).extractLsb' 20 4 = 0 ∧
    (slotBits f 12).extractLsb' 8 4 = 0 ∧ (slotBits f 12).extractLsb' 12 4 = BitVec.ofNat 4 f.val ∧
    (slotBits f 12).extractLsb' 16 4 = 0 ∧ (slotBits f 12).extractLsb' 20 4 = 0 ∧
    (slotBits f 16).extractLsb' 8 4 = 0 ∧ (slotBits f 16).extractLsb' 12 4 = 0 ∧
    (slotBits f 16).extractLsb' 16 4 = BitVec.ofNat 4 f.val ∧ (slotBits f 16).extractLsb' 20 4 = 0 ∧
    (slotBits f 20).extractLsb' 8 4 = 0 ∧ (slotBits f 20).extractLsb' 12 4 = 0 ∧
    (slotBits f 20).extractLsb' 16 4 = 0 ∧ (slotBits f 20).extractLsb' 20 4 = BitVec.ofNat 4 f.val := by decide

theorem mode_extracts : ∀ b : Bool,
    (modeBit b 24).extractLsb' 8 4 = 0 ∧ (modeBit b 24).extractLsb' 12 4 = 0 ∧ (modeBit b 24).extractLsb' 16 4 = 0 ∧
    (modeBit b 25).extractLsb' 8 4 = 0 ∧ (modeBit b 25).extractLsb' 12 4 = 0 ∧ (modeBit b 25).extractLsb' 16 4 = 0 ∧
    (modeBit b 26).extractLsb' 8 4 = 0 ∧ (modeBit b 26).extractLsb' 12 4 = 0 ∧
    (modeBit b 26).extractLsb' 16 4 = 0 := by decide

theorem slot_modes : ∀ (f : Slot), (∀ n, n = 24 ∨ n = 25 ∨ n = 26 → (slotBits f 8).getLsbD n = false ∧
    (slotBits f 12).getLsbD n = false ∧ (slotBits f 16).getLsbD n = false) := by
  intro f n hn
  rcases hn with rfl | rfl | rfl <;> revert f <;> decide

theorem mode_modes : ∀ b : Bool,
    (modeBit b 24).getLsbD 24 = b ∧ (modeBit b 24).getLsbD 25 = false ∧ (modeBit b 24).getLsbD 26 = false ∧
    (modeBit b 25).getLsbD 24 = false ∧ (modeBit b 25).getLsbD 25 = b ∧ (modeBit b 25).getLsbD 26 = false ∧
    (modeBit b 26).getLsbD 24 = false ∧ (modeBit b 26).getLsbD 25 = false ∧ (modeBit b 26).getLsbD 26 = b := by decide

theorem slotField_eq {w : Word} {lo : Nat} {f : Slot} (h : w.extractLsb' lo 4 = BitVec.ofNat 4 f.val) :
    slotField w lo = f := by
  apply Fin.ext
  simp only [slotField, h, BitVec.toNat_ofNat]
  exact Nat.mod_eq_of_lt f.isLt

/-- One condition of a chain of rows: it holds and the row answers, or it does not and the rest of the chain does. -/
theorem ite_cases {α : Type} {c : Prop} [Decidable c] {a b x : α} (h : (if c then a else b) = x) :
    (c ∧ a = x) ∨ (¬c ∧ b = x) := by
  by_cases hc : c
  · rw [if_pos hc] at h; exact .inl ⟨hc, h⟩
  · rw [if_neg hc] at h; exact .inr ⟨hc, h⟩

/-- A decoded word lies in the row of what it decodes to. -/
theorem row_of_decodeRow {w : Word} {i : Instr} (h : decodeRow w = .ok i) :
    w &&& Laws.MatchesRow.mask i = Laws.MatchesRow.pattern i := by
  unfold decodeRow at h
  iterate 12
    rcases ite_cases h with ⟨hr, hi⟩ | ⟨-, h⟩
    · cases hi; exact hr
  cases h

end Sys2Proof
end

