-- ==== Sys2Proof/Tests/Slice0.lean ====
section
/-! SUPPORT. The model's own tests, and a witness of the hypotheses of every statement. Expected values are those of
95_test_vectors.md (E1 to E8, V1 to V128) or are worked out by hand from the rule named. -/

namespace Sys2Proof.Tests

set_option Elab.async false

open Sys2Proof Sys2Proof.Machine

/-! ## Small states -/

/-- A buffer `w × h` of the given samples with GAIN 1.0. -/
def img (w h : Nat) (l : List Int) : Buffer :=
  { width := w, height := h, gain := 0x3F800000#32, samples := l.map (BitVec.ofInt 16) }

/-- The default machine after reset, with these buffers in b0, b1, ... -/
def withBufs (l : List Buffer) : State :=
  { State.reset with bufs := l ++ List.replicate (8 - l.length) Buffer.atReset }

/-- The same with the kernel `k` in k0. -/
def withKernel (k : Kernel) (l : List Buffer) : State :=
  { withBufs l with kers := k :: List.replicate 3 Kernel.atReset }

/-- A kernel of the given weights and GAIN. -/
def ker (w h : Nat) (gain : Int) (l : List Int) : Kernel :=
  { width := w, height := h, gain := BitVec.ofInt 16 gain, weights := l.map (BitVec.ofInt 16) }

/-- The state with these operand registers. -/
def args (s : State) (a0 a1 a2 : Int) : State :=
  { s with arg0 := BitVec.ofInt 32 a0, arg1 := BitVec.ofInt 32 a1, arg2 := BitVec.ofInt 32 a2 }

/-- The state with these host moves to make. -/
def moves (s : State) (l : List HostMove) : State := { s with hostQueue := l }

/-- The outcome is a next state of which `f` holds. -/
def nextWith (o : Host.Outcome State Fault Refusal) (f : State → Bool) : Bool :=
  match o with
  | .next t => f t
  | .fault _ => false
  | .refused _ => false

/-- The reply of the one access in the queue. -/
def replyTo (s : State) (m : HostMove) : Option Reply :=
  match step (moves s [m]) with
  | .next t => t.replies.head?
  | .fault _ => none
  | .refused _ => none

/-- An access of the given width at an offset, with the aperture at 0. -/
def acc (off : Nat) (size : AccessSize) (kind : AccessKind) : HostMove :=
  .access { addr := off, size := size, kind := kind }

/-- b0 = 3×2 [10 .. 15] (V12 to V19). -/
def sixSamples : State := withBufs [img 3 2 [10, 11, 12, 13, 14, 15]]

/-- The 5×5 impulse and the 3×3 box kernel (V41 to V44). -/
def impulse : State :=
  withKernel (ker 3 3 9 [1, 1, 1, 1, 1, 1, 1, 1, 1])
    [img 5 5 [0, 0, 0, 0, 0, 0, 0, 0, 0, 0, 0, 0, 9, 0, 0, 0, 0, 0, 0, 0, 0, 0, 0, 0, 0]]

/-- PM[0] = 0x80FF7F01 (V89). -/
def onePixel : State := { State.reset with pm := [(0, 0x01#8), (1, 0x7F#8), (2, 0xFF#8), (3, 0x80#8)] }

/-- A NOP is in flight, `n` host moves may land before it completes, and these moves are queued. -/
def busyNop (n : Nat) (l : List HostMove) : State :=
  { State.reset with inFlight := some { word := 0, arg0 := 0, arg1 := 0, arg2 := 0, slack := n }, hostQueue := l }

/-! ## WellFormed: an ill-formed term for each check (R92; NBUF = 8, NKER = 4) -/

theorem test_illformed_create : (Instr.create 8).wellFormed Params.default = false := by decide
theorem test_illformed_release : (Instr.release 8).wellFormed Params.default = false := by decide
theorem test_illformed_get : (Instr.get 15).wellFormed Params.default = false := by decide
theorem test_illformed_set : (Instr.set 8).wellFormed Params.default = false := by decide
theorem test_illformed_fill : (Instr.fill 9).wellFormed Params.default = false := by decide
theorem test_illformed_kload :
    (Instr.kload 4 0).wellFormed Params.default = false ∧ (Instr.kload 0 8).wellFormed Params.default = false := by decide
theorem test_illformed_conv :
    (Instr.conv 8 0 0 false false false).wellFormed Params.default = false ∧
    (Instr.conv 0 8 0 true true true).wellFormed Params.default = false ∧
    (Instr.conv 0 0 4 false false false).wellFormed Params.default = false := by decide
theorem test_illformed_diff :
    (Instr.diff 8 0 0 false).wellFormed Params.default = false ∧
    (Instr.diff 0 8 0 true).wellFormed Params.default = false ∧
    (Instr.diff 0 0 8 false).wellFormed Params.default = false := by decide
theorem test_illformed_scaledown :
    (Instr.scaledown 8 0).wellFormed Params.default = false ∧
    (Instr.scaledown 0 8).wellFormed Params.default = false := by decide
theorem test_illformed_pack :
    (Instr.pack 8 0 0 0).wellFormed Params.default = false ∧ (Instr.pack 0 8 0 0).wellFormed Params.default = false ∧
    (Instr.pack 0 0 8 0).wellFormed Params.default = false ∧
    (Instr.pack 0 0 0 8).wellFormed Params.default = false := by decide
theorem test_illformed_unpack :
    (Instr.unpack 8 0 0 0).wellFormed Params.default = false ∧
    (Instr.unpack 0 8 0 0).wellFormed Params.default = false ∧
    (Instr.unpack 0 0 8 0).wellFormed Params.default = false ∧
    (Instr.unpack 0 0 0 8).wellFormed Params.default = false := by decide

/-! ## Decode: words written out field by field from R84: RES, V, S, D, FD, FC, FB, FA, OP -/

theorem test_decode_nop : decode Params.default 0b00000_0_0_0_0000_0000_0000_0000_00000000#32 = .ok .nop := by decide
theorem test_decode_create :
    decode Params.default 0b00000_0_0_0_0000_0000_0000_0101_00000001#32 = .ok (.create 5) := by decide
theorem test_decode_release :
    decode Params.default 0b00000_0_0_0_0000_0000_0000_0110_00000010#32 = .ok (.release 6) := by decide
theorem test_decode_get :
    decode Params.default 0b00000_0_0_0_0000_0000_0000_0111_00000011#32 = .ok (.get 7) := by decide
theorem test_decode_set :
    decode Params.default 0b00000_0_0_0_0000_0000_0000_0001_00000100#32 = .ok (.set 1) := by decide
theorem test_decode_fill :
    decode Params.default 0b00000_0_0_0_0000_0000_0000_0100_00000101#32 = .ok (.fill 4) := by decide
theorem test_decode_kload :
    decode Params.default 0b00000_0_0_0_0000_0000_0111_0010_00000110#32 = .ok (.kload 2 7) := by decide
theorem test_decode_conv :
    decode Params.default 0b00000_1_0_1_0000_0011_0110_0101_00000111#32 = .ok (.conv 5 6 3 true false true) ∧
    decode Params.default 0b00000_0_1_0_0000_0001_0010_0100_00000111#32 = .ok (.conv 4 2 1 false true false) := by decide
theorem test_decode_diff :
    decode Params.default 0b00000_1_0_0_0000_0110_0101_0011_00001000#32 = .ok (.diff 3 5 6 true) ∧
    decode Params.default 0b00000_0_0_0_0000_0001_0010_0100_00001000#32 = .ok (.diff 4 2 1 false) := by decide
theorem test_decode_scaledown :
    decode Params.default 0b00000_1_0_0_0000_0000_0110_0011_00001001#32 = .ok (.scaledown 3 6) := by decide
theorem test_decode_pack :
    decode Params.default 0b00000_0_0_0_0100_0011_0010_0001_00001010#32 = .ok (.pack 1 2 3 4) := by decide
theorem test_decode_unpack :
    decode Params.default 0b00000_0_0_0_0111_0101_0011_0001_00001011#32 = .ok (.unpack 1 3 5 7) := by decide

/-- V72 to V74, V100 to V109: the illegal words of the vectors. -/
theorem test_decode_illegal :
    decode Params.default 0x01010208#32 = .error .fixedField ∧ decode Params.default 0x02010208#32 = .error .fixedField ∧
    decode Params.default 0x00110208#32 = .error .fixedField ∧ decode Params.default 0x00000100#32 = .error .fixedField ∧
    decode Params.default 0x000000FF#32 = .error .unknownOpcode ∧
    decode Params.default 0x80000000#32 = .error .reservedBits ∧
    decode Params.default 0x08000001#32 = .error .reservedBits ∧
    decode Params.default 0x00001001#32 = .error .fixedField ∧ decode Params.default 0x01000001#32 = .error .fixedField ∧
    decode Params.default 0x00000801#32 = .error .slotOutOfRange ∧
    decode Params.default 0x00008006#32 = .error .slotOutOfRange ∧
    decode Params.default 0x00000109#32 = .error .literalDownscale := by decide

/-- The table's numbering: a word of a 32-bit row is decoded as it stands (R84). -/
theorem test_decodeTableWord : decodeTableWord 32 0x04000109 = some (.scaledown 1 0) ∧
    decodeTableWord 32 0x00000109 = none := by decide

/-! ## One step of each command -/

/-- V118: a successful command keeps ERR_STICKY and clears ERR. -/
theorem test_nop_keeps_sticky :
    nextWith (step ({ State.reset with err := .illegalCommand, errSticky := true }.withFetchWord 32 0x00000000))
      (fun t => t.status == 0x02#32) = true := by decide +kernel

/-- V1. -/
theorem test_create :
    nextWith (exec (.create 0) (args State.reset 3 2 0)) (fun t => t.buf 0 == img 3 2 [0, 0, 0, 0, 0, 0] && t.status == 0) =
      true := by decide +kernel

/-- V10: the dimension check comes before capacity. -/
theorem test_create_precedence :
    nextWith (exec (.create 0) (args State.reset (-1) 0x7FFFFFFF 0)) (fun t => t.status == 0x12#32) = true := by
  decide +kernel

/-- V29. -/
theorem test_release :
    nextWith (exec (.release 0) (withBufs [{ img 2 2 [1, 1, 1, 1] with gain := 0x40000000#32 }]))
      (fun t => t.buf 0 == img 0 0 []) = true := by decide +kernel

/-- V15: a negative x that the flat index brings back into range. -/
theorem test_get_wraps_row :
    nextWith (exec (.get 0) (args sixSamples (-1) 1 0)) (fun t => t.result == 0x0000000C#32) = true := by decide +kernel

/-- V17. -/
theorem test_get_out_of_range :
    nextWith (exec (.get 0) (args sixSamples 6 0 0)) (fun t => t.result == 0xFFFFFFFF#32) = true := by decide +kernel

/-- V21, V22: bits 31:16 of the value are ignored, and (3, 0) is (0, 1). -/
theorem test_set :
    nextWith (exec (.set 0) (args (withBufs [img 3 2 [0, 0, 0, 0, 0, 0]]) 1 1 0x00012345))
      (fun t => t.buf 0 == img 3 2 [0, 0, 0, 0, 9029, 0]) = true ∧
    nextWith (exec (.set 0) (args (withBufs [img 3 2 [0, 0, 0, 0, 9029, 0]]) 3 0 0x0000FFFF))
      (fun t => t.buf 0 == img 3 2 [0, 0, 0, -1, 9029, 0]) = true := by decide +kernel

/-- V24: a SET out of range changes nothing and is no error. -/
theorem test_set_out_of_range :
    nextWith (exec (.set 0) (args sixSamples (-1) 0 6)) (fun t => t.buf 0 == sixSamples.buf 0 && t.status == 0) = true := by
  decide +kernel

/-- V26, V28. -/
theorem test_fill :
    nextWith (exec (.fill 0) (args (withBufs [img 2 2 [0, 0, 0, 0]]) 0xABCD8001 0 0))
      (fun t => t.buf 0 == img 2 2 [-32767, -32767, -32767, -32767]) = true ∧
    nextWith (exec (.fill 0) (args (withBufs [{ img 2 2 [1, 1, 1, 1] with gain := 0x40000000#32 }]) 9 0 0))
      (fun t => t.buf 0 == { img 2 2 [9, 9, 9, 9] with gain := 0x40000000#32 }) = true := by decide +kernel

/-- V32: GAIN is the wrapped exact sum, 270000 - 4 * 65536 = 7856. -/
theorem test_kload :
    nextWith (exec (.kload 0 7) ((withBufs []).setBuf 7 (img 3 3 (List.replicate 9 30000))))
      (fun t => t.ker 0 == ker 3 3 7856 (List.replicate 9 30000)) = true := by decide +kernel

/-- V36: 272 samples are more than KMAX_TAPS. -/
theorem test_kload_capacity :
    nextWith (exec (.kload 0 7) ((withBufs []).setBuf 7 (img 17 16 (List.replicate 272 1))))
      (fun t => t.ker 0 == Kernel.atReset && t.status == 0x42#32) = true := by decide +kernel

/-- V41, V44: the impulse in the literal and in the degained corrected variant. -/
theorem test_conv_variants :
    nextWith (exec (.conv 1 0 0 false false false) impulse) (fun t => t.buf 1 ==
      img 5 5 [0, 0, 0, 0, 0, 0, 0, 0, 0, 0, 0, 0, 81, 0, 0, 0, 0, 0, 0, 0, 0, 0, 0, 0, 0]) = true ∧
    nextWith (exec (.conv 1 0 0 true false true) impulse) (fun t => t.buf 1 ==
      img 5 5 [0, 0, 0, 0, 0, 0, 1, 1, 1, 0, 0, 1, 1, 1, 0, 0, 1, 1, 1, 0, 0, 0, 0, 0, 0]) = true := by decide +kernel

/-- V49, V50, V53, V55: wrap, saturation, truncation toward zero, a negative GAIN. -/
theorem test_conv_arithmetic :
    nextWith (exec (.conv 1 0 0 false false false)
      (withKernel (ker 3 3 9 (List.replicate 9 1)) [img 3 3 (List.replicate 9 10000)]))
      (fun t => t.buf 1 == img 3 3 [0, 0, 0, 0, 24464, 0, 0, 0, 0]) = true ∧
    nextWith (exec (.conv 1 0 0 false true false)
      (withKernel (ker 3 3 9 (List.replicate 9 1)) [img 3 3 (List.replicate 9 10000)]))
      (fun t => t.buf 1 == img 3 3 [0, 0, 0, 0, 32767, 0, 0, 0, 0]) = true ∧
    nextWith (exec (.conv 1 0 0 true false true) (withKernel (ker 3 1 2 [1, 0, 1]) [img 3 1 [-3, 100, 0]]))
      (fun t => t.buf 1 == img 3 1 [0, -1, 0]) = true ∧
    nextWith (exec (.conv 1 0 0 true false true) (withKernel (ker 3 1 (-2) [-1, 0, -1]) [img 3 1 [1, 2, 4]]))
      (fun t => t.buf 1 == img 3 1 [0, -5, 0]) = true := by decide +kernel

/-- V68: the symmetric bounds. V66: the literal variant copies `a`. -/
theorem test_diff :
    nextWith (exec (.diff 2 0 1 true)
      (withBufs [img 4 1 [32767, -32768, 0, -32768], img 4 1 [-32768, 32767, -32768, 0]]))
      (fun t => t.buf 2 == img 4 1 [32767, -32767, 32767, -32767]) = true ∧
    nextWith (exec (.diff 2 0 1 false) (withBufs [img 2 1 [100, -5], img 2 1 [30, 40]]))
      (fun t => t.buf 2 == img 2 1 [100, -5]) = true := by decide +kernel

/-- E8: the same number of samples is not enough. -/
theorem test_diff_mismatch :
    nextWith (exec (.diff 2 0 1 false)
      (withBufs [img 2 3 [1, 1, 1, 1, 1, 1], img 3 2 [1, 1, 1, 1, 1, 1], img 1 1 [77]]))
      (fun t => t.buf 2 == img 1 1 [77] && t.status == 0x22#32) = true := by decide +kernel

/-- V75, V76. -/
theorem test_scaledown :
    nextWith (exec (.scaledown 1 0) (args (withBufs [img 5 5 ((List.range 25).map Int.ofNat)]) 2 0 0))
      (fun t => t.buf 1 == img 2 2 [3, 5, 13, 15]) = true ∧
    nextWith (exec (.scaledown 1 0) (args (withBufs [img 4 2 [-1, 0, -3, -3, 0, 0, -3, -4]]) 2 0 0))
      (fun t => t.buf 1 == img 2 1 [0, -3]) = true := by decide +kernel

/-- E8: a scale of -2. -/
theorem test_scaledown_small_scale :
    nextWith (exec (.scaledown 1 0) (args (withBufs [img 2 2 [7, 7, 7, 7], img 1 1 [3]]) (-2) 0 0))
      (fun t => t.buf 1 == img 1 1 [3] && t.status == 0x32#32) = true := by decide +kernel

/-- V85: 0xFF2C0000 in PM[1], and PCOUNT = 2. -/
theorem test_pack :
    nextWith (exec (.pack 0 1 2 3)
      (withBufs [img 2 1 [1, -1], img 2 1 [2, 256], img 2 1 [3, 300], img 2 1 [255, 255]]))
      (fun t => t.pm == [(0, 0x01#8), (1, 0x02#8), (2, 0x03#8), (3, 0xFF#8), (4, 0x00#8), (5, 0x00#8), (6, 0x2C#8),
        (7, 0xFF#8)] && t.pcount == 2 && t.pkW == 2 && t.pkH == 1) = true := by decide +kernel

/-- V87: a PACK of empty planes writes no word, and PCOUNT 0. -/
theorem test_pack_empty :
    nextWith (exec (.pack 0 1 2 3) { onePixel with pcount := 5, pkW := 5, pkH := 1 })
      (fun t => t.pm == onePixel.pm && t.pcount == 0 && t.pkW == 0 && t.pkH == 0) = true := by decide +kernel

/-- V89: zero extension. V91: blue is written to the shared slot after red and green. -/
theorem test_unpack :
    nextWith (exec (.unpack 1 2 3 4) (args onePixel 1 1 0)) (fun t => t.buf 1 == img 1 1 [1] &&
      t.buf 2 == img 1 1 [127] && t.buf 3 == img 1 1 [255] && t.buf 4 == img 1 1 [128]) = true ∧
    nextWith (exec (.unpack 1 1 1 2)
      (args { State.reset with pm := [(0, 0x01#8), (1, 0x02#8), (2, 0x03#8), (3, 0x00#8)] } 1 1 0))
      (fun t => t.buf 1 == img 1 1 [3]) = true := by decide +kernel

/-- V96: undefined pixels do not stop UNPACK; the dimensions are fixed, the samples are not. -/
theorem test_unpack_undefined :
    nextWith (exec (.unpack 4 5 6 7) (args State.reset 1 1 0))
      (fun t => t.status == 0 && decide ((t.buf 4).width = 1 ∧ (t.buf 4).height = 1 ∧ t.draws = 1)) = true := by
  decide +kernel

/-! ## Host accesses and reset -/

/-- V110 to V115. -/
theorem test_reads_after_reset :
    replyTo State.reset (rd Params.default 0x010) = some (.data 0) ∧
    replyTo State.reset (rd Params.default 0x108) = some (.data 0x3F800000#32) ∧
    replyTo State.reset (rd Params.default 0x208) = some (.data 0) ∧
    replyTo State.reset (rd Params.default 0x1F0) = some (.data 0) ∧
    replyTo State.reset (rd Params.default 0x300) = some (.data 0) ∧
    replyTo State.reset (rd Params.default 0x140000) = some (.data 0) := by decide +kernel

/-- V33: KER_GAIN(0) is sign-extended. -/
theorem test_kernel_gain_read :
    replyTo (withKernel (ker 1 1 (-14336) [-14336]) []) (rd Params.default 0x208) = some (.data 0xFFFFC800#32) := by
  decide +kernel

/-- V116, V117, V119, V120. -/
theorem test_register_writes :
    nextWith (step (moves { State.reset with err := .illegalCommand, errSticky := true } [wr Params.default 0x010 2]))
      (fun t => t.status == 0x50#32) = true ∧
    nextWith (step (moves { State.reset with err := .illegalCommand, errSticky := true } [wr Params.default 0x010 1]))
      (fun t => t.status == 0x52#32) = true ∧
    nextWith (step (moves { State.reset with result := 0x0A } [wr Params.default 0x014 0x12345678]))
      (fun t => t.result == 0x0A#32) = true ∧
    nextWith (step (moves (withBufs [img 2 2 [0, 0, 0, 0]]) [wr Params.default 0x100 9]))
      (fun t => t.buf 0 == img 2 2 [0, 0, 0, 0]) = true := by decide +kernel

/-- V121 to V123: bus errors. -/
theorem test_bus_errors :
    replyTo State.reset (acc 0x002 .word .read) = some .busError ∧
    replyTo State.reset (acc 0x010 .half .read) = some .busError ∧
    replyTo State.reset (acc 0x000 .byte (.write 1)) = some .busError := by decide +kernel

/-- V124 to V126: the packed window, PM[0] = 0xFF030201. -/
theorem test_packed_window :
    let s : State := { State.reset with pm := [(0, 0x01#8), (1, 0x02#8), (2, 0x03#8), (3, 0xFF#8)] }
    replyTo s (acc 0x100002 .half .read) = some (.data 0xFF03#32) ∧
    replyTo s (acc 0x100001 .half .read) = some .busError ∧
    replyTo s (acc 0x100002 .word .read) = some .busError := by decide +kernel

/-- V97, its last write: 0x4433 at 0x100002 gives byte 2 = 0x33 and byte 3 = 0x44. -/
theorem test_packed_write :
    nextWith (step (moves { State.reset with pm := [(0, 0x11#8), (1, 0x22#8)] } [acc 0x100002 .half (.write 0x4433)]))
      (fun t => t.pm == [(0, 0x11#8), (1, 0x22#8), (2, 0x33#8), (3, 0x44#8)]) = true := by decide +kernel

/-- V101: an illegal word completes with STATUS 0x52 and CMD holds it. -/
theorem test_illegal_word :
    nextWith (step (State.reset.withFetchWord 32 0x0000000C)) (fun t => t.status == 0x52#32 && t.cmd == 0x0C#32) = true := by
  decide +kernel

/-- R202: an access while reset is asserted is refused by name. R59: one outside the aperture is not the block's. -/
theorem test_stops :
    (match step (moves { State.reset with resetAsserted := true } [rd Params.default 0x010]) with
      | .refused r => r == .accessDuringReset
      | .next _ => false
      | .fault _ => false) = true ∧
    (match step (moves State.reset [acc 0x200000 .word .read]) with
      | .fault f => f == .outsideAperture
      | .next _ => false
      | .refused _ => false) = true := by decide +kernel

/-- The canonical form of packed memory, and a list out of order. -/
theorem test_memory_form : Memory.wf State.reset.pm ∧ Memory.wf onePixel.pm ∧ ¬Memory.wf [(1, 0#8), (0, 0#8)] := by decide

/-! ## Witnesses: for each statement with hypotheses, a state and operands that meet them, clause by clause -/

/-- Four planes 2×1 in b0 to b3: samples 0 to 255 in b0 and b1, a negative one in b2 and one above 255 in b3. -/
def planes : State := withBufs [img 2 1 [0, 255], img 2 1 [128, 1], img 2 1 [-1, 64], img 2 1 [300, 0]]

/-- A state with a known empty host queue and no command in flight meets the invariant if its data do. -/
theorem inv_of_data {s : State} (h₁ : s.params = Params.default) (h₂ : s.bufs.length = 8)
    (h₃ : (s.bufs.all fun b => b.wf Params.default) = true) (h₄ : s.kers.length = 4)
    (h₅ : (s.kers.all fun k => k.wf Params.default) = true) (h₆ : s.pm = []) (h₇ : s.pcount = 0 ∧ s.pkW = 0)
    (h₈ : ∀ c, s.inFlight = some c → c.matchesRegs s = true) (h₉ : s.resetAsserted = false) : s.Inv where
  params := by rw [h₁]; decide
  nbuf := by rw [h₁]; exact h₂
  bufs := by rw [h₁]; exact List.all_eq_true.mp h₃
  nker := by rw [h₁]; exact h₄
  kers := by rw [h₁]; exact List.all_eq_true.mp h₅
  pm := by rw [h₆]; exact ⟨List.Pairwise.nil, by simp⟩
  pcount := by rw [h₇.1, h₇.2]; simp
  inFlight := h₈
  reset := fun h => by rw [h₉] at h; cases h

theorem inv_planes : planes.Inv :=
  inv_of_data rfl rfl (by decide +kernel) rfl (by decide +kernel) rfl ⟨rfl, rfl⟩ (fun c h => by cases h) rfl

theorem inv_busyNop (n : Nat) (l : List HostMove) : (busyNop n l).Inv :=
  inv_of_data rfl rfl (show (State.reset.bufs.all fun b => b.wf Params.default) = true by decide +kernel) rfl
    (show (State.reset.kers.all fun k => k.wf Params.default) = true by decide +kernel) rfl ⟨rfl, rfl⟩
    (fun c h => by cases h; rfl) rfl

/-- The state of the block while reset is asserted, with these host moves to make. -/
def underResetWith (l : List HostMove) : State := { State.reset with resetAsserted := true, hostQueue := l }

theorem inv_underResetWith (l : List HostMove) : (underResetWith l).Inv where
  params := show Params.default.legal = true by decide
  nbuf := rfl
  bufs := List.all_eq_true.mp (show (State.reset.bufs.all fun b => b.wf Params.default) = true by decide +kernel)
  nker := rfl
  kers := List.all_eq_true.mp (show (State.reset.kers.all fun k => k.wf Params.default) = true by decide +kernel)
  pm := ⟨List.Pairwise.nil, fun c h => by cases h⟩
  pcount := rfl
  inFlight := fun c h => by cases h
  reset := fun _ => rfl

theorem witness_ResetMeetsInvariant : Params.default.legal = true ∧
    Params.legal { nbuf := 16, nker := 16, slotWords := 2 ^ 18, kmaxTaps := 2 ^ 16, apertureBase := 0x40000000 } = true ∧
    Params.legal { nbuf := 1, nker := 1, slotWords := 1, kmaxTaps := 1, apertureBase := 0 } = true := by decide

theorem witness_ResetAbandonsCommand :
    ((busyNop 1 [.assertReset]).hostQueue = [.assertReset] ∧
      ∀ c, (busyNop 1 [.assertReset]).inFlight = some c → 0 < c.slack) ∧
    ((moves State.reset [.assertReset]).hostQueue = [.assertReset] ∧
      ∀ c, (moves State.reset [.assertReset]).inFlight = some c → 0 < c.slack) ∧
    (underResetWith [.releaseReset]).Inv ∧ (underResetWith [.releaseReset]).resetAsserted = true ∧
    (underResetWith [.releaseReset]).inFlight = none ∧
    (underResetWith [.releaseReset]).hostQueue = [.releaseReset] :=
  ⟨⟨rfl, fun c h => by cases h; decide⟩, ⟨rfl, fun c h => by cases h⟩, inv_underResetWith _, rfl, rfl, rfl⟩

theorem witness_DecodeInvertsEncode :
    (Instr.conv 7 7 3 true true true).wellFormed Params.default = true ∧
    (Instr.unpack 7 0 7 0).wellFormed Params.default = true := by decide

theorem witness_EncodeInvertsDecode :
    decode Params.default 0x05000207#32 = .ok (.conv 2 0 0 true false true) := by decide

/-- One word for each line of the list, at a boundary value. -/
theorem witness_IllegalWordsAreExactlyTheListed :
    0x0C ≤ (fieldOp 0x0000000C#32).toNat ∧ (0x08000107#32).extractLsb' 27 5 ≠ 0 ∧
    ((fieldOp 0x00000100#32).toNat = 0 ∧ 0x00000100#32 ≠ 0) ∧
    ((fieldOp 0x00000805#32).toNat = 5 ∧ 8 ≤ (fieldA 0x00000805#32).val) ∧
    ((fieldOp 0x00007406#32).toNat = 6 ∧ 4 ≤ (fieldA 0x00007406#32).val) ∧
    ((fieldOp 0x00040007#32).toNat = 7 ∧ 4 ≤ (fieldC 0x00040007#32).val) ∧
    ((fieldOp 0x01010208#32).toNat = 8 ∧ bitDegain 0x01010208#32 = true) ∧
    ((fieldOp 0x00000109#32).toNat = 9 ∧ bitVariant 0x00000109#32 = false) ∧
    ((fieldOp 0x0080000A#32).toNat = 10 ∧ 8 ≤ (fieldD 0x0080000A#32).val) := by decide

theorem witness_StepRunsTheDecodedCommand :
    (∃ c, (busyNop 1 [wr Params.default 0x000 0]).inFlight = some c ∧
      (busyNop 1 [wr Params.default 0x000 0]).hostLands c = false ∧ decode Params.default c.word = .ok .nop) ∧
    decode State.reset.params (BitVec.ofNat 32 (0x101 % 2 ^ 32)) = .ok (.create 1) :=
  ⟨⟨_, rfl, by decide, by decide⟩, by decide⟩

theorem witness_IllegalCommandChangesOnlyStatus :
    (∃ c, (State.reset.inFlightWord 0x0C#32).inFlight = some c ∧ (State.reset.inFlightWord 0x0C#32).hostLands c = false ∧
      decode State.reset.params c.word = .error .unknownOpcode) ∧
    (Instr.create 8).wellFormed State.reset.params = false :=
  ⟨⟨_, rfl, by decide, by decide⟩, by decide⟩

theorem witness_FailingCommandChangesOnlyStatus :
    ∃ t, exec (.create 0) (args State.reset (-1) 0 0) = .next t ∧ t.err ≠ .ok := ⟨_, rfl, by decide⟩

/-- One command for each code. -/
theorem witness_ErrorCodesHaveTheirCauses :
    nextWith (exec (.create 0) (args State.reset (-1) 0 0)) (fun t => t.err == .invalidDimension) = true ∧
    nextWith (exec (.diff 2 0 1 true) (withBufs [img 2 1 [1, 2], img 1 2 [1, 2]])) (fun t => t.err == .dimensionMismatch) =
      true ∧
    nextWith (exec (.scaledown 1 0) (args State.reset 1 0 0)) (fun t => t.err == .invalidArgument) = true ∧
    nextWith (exec (.unpack 0 1 2 3) (args State.reset 257 256 0)) (fun t => t.err == .capacityExceeded) = true ∧
    nextWith (exec (.fill 8) State.reset) (fun t => t.err == .illegalCommand) = true := by decide +kernel

theorem witness_CommandEndsWithinItsSlack :
    (busyNop 2 [rd Params.default 0x010, rd Params.default 0x010, rd Params.default 0x010]).Inv ∧
    ∃ c, (busyNop 2 [rd Params.default 0x010, rd Params.default 0x010, rd Params.default 0x010]).inFlight = some c :=
  ⟨inv_busyNop _ _, _, rfl⟩

/-- A command for each number of ARG operands. -/
theorem witness_AssembledWritesIssueTheCommand :
    (moves State.reset (assemble Params.default (.set 0) 1 1 5)).inFlight = none ∧
    (moves State.reset (assemble Params.default (.set 0) 1 1 5)).resetAsserted = false ∧
    argCount (.set 0) = 3 ∧ argCount (.create 0) = 2 ∧ argCount (.fill 0) = 1 ∧ argCount .nop = 0 ∧
    (moves State.reset (assemble Params.default (.set 0) 1 1 5)).hostQueue =
      assemble (moves State.reset (assemble Params.default (.set 0) 1 1 5)).params (.set 0) 1 1 5 ++ [] := by decide

/-- Admitted dimensions at the capacity, and at the width of W with no sample (V6, V3). -/
theorem witness_CreateMakesZeroBuffer :
    (args State.reset 256 256 0).slotsPresent ∧ (7 : Slot).val < State.reset.params.nbuf ∧
    signedOperand (args State.reset 256 256 0).operand0 * signedOperand (args State.reset 256 256 0).operand1 = 65536 ∧
    0 ≤ signedOperand (args State.reset 0x7FFFFFFF 0 0).operand0 ∧
    signedOperand (args State.reset 0x7FFFFFFF 0 0).operand0 * signedOperand (args State.reset 0x7FFFFFFF 0 0).operand1 = 0 :=
  ⟨⟨rfl, rfl⟩, by decide, by decide, by decide, by decide⟩

/-- A negative dimension in either place, and one pixel row above the capacity (V4, V5, V8, V94). -/
theorem witness_BadDimensionsAreRejected :
    (Instr.create 0).wellFormed State.reset.params = true ∧ (Instr.unpack 4 5 6 7).wellFormed State.reset.params = true ∧
    signedOperand (args State.reset (-1) 0 0).operand0 < 0 ∧ signedOperand (args State.reset 0 (-0x80000000) 0).operand1 < 0 ∧
    0 ≤ signedOperand (args State.reset 256 257 0).operand0 ∧ 0 ≤ signedOperand (args State.reset 256 257 0).operand1 ∧
    (State.reset.params.slotWords : Int) <
      signedOperand (args State.reset 256 257 0).operand0 * signedOperand (args State.reset 256 257 0).operand1 := by decide

theorem witness_ReleaseEmptiesTheSlot : sixSamples.slotsPresent ∧ (0 : Slot).val < sixSamples.params.nbuf :=
  ⟨⟨rfl, rfl⟩, by decide⟩

/-- The flat indices 0 and 5 are in range, -1 and 6 are not (V12, V13, V17, V18). -/
theorem witness_GetReadsTheFlatIndex :
    (0 : Slot).val < sixSamples.params.nbuf ∧ ((sixSamples.buf 0).width : Int) * (sixSamples.buf 0).height = 6 ∧
    signedOperand (args sixSamples 0 0 0).operand0 + signedOperand (args sixSamples 0 0 0).operand1 * 3 = 0 ∧
    signedOperand (args sixSamples 2 1 0).operand0 + signedOperand (args sixSamples 2 1 0).operand1 * 3 = 5 ∧
    signedOperand (args sixSamples 6 0 0).operand0 + signedOperand (args sixSamples 6 0 0).operand1 * 3 = 6 ∧
    signedOperand (args sixSamples (-1) 0 0).operand0 + signedOperand (args sixSamples (-1) 0 0).operand1 * 3 = -1 ∧
    (sixSamples.buf 0).samples[0]? = some 10 ∧ (sixSamples.buf 0).samples[5]? = some 15 := by decide +kernel

theorem witness_SetWritesTheFlatIndex :
    (args sixSamples 2 1 7).slotsPresent ∧ (0 : Slot).val < sixSamples.params.nbuf ∧
    signedOperand (args sixSamples 2 1 7).operand0 +
      signedOperand (args sixSamples 2 1 7).operand1 * ((args sixSamples 2 1 7).buf 0).width = 5 ∧
    signedOperand (args sixSamples 0 2 7).operand0 +
      signedOperand (args sixSamples 0 2 7).operand1 * ((args sixSamples 0 2 7).buf 0).width = 6 :=
  ⟨⟨rfl, rfl⟩, by decide, by decide, by decide⟩

theorem witness_FillSetsEverySample : (args sixSamples 5 0 0).slotsPresent ∧ (7 : Slot).val < sixSamples.params.nbuf :=
  ⟨⟨rfl, rfl⟩, by decide⟩

/-- Both commands are in flight; or, for the SET, none is. -/
theorem witness_GetAfterSet :
    ((args sixSamples 2 1 7).inFlightWord 0x00000004#32).slotsPresent ∧
    ((args sixSamples 2 1 7).buf 0).samples.length =
      ((args sixSamples 2 1 7).buf 0).width * ((args sixSamples 2 1 7).buf 0).height ∧
    ((args sixSamples 2 1 7).inFlightWord 0x00000004#32).findsArgs 2 1 7 ∧ (args sixSamples 2 1 7).findsArgs 2 1 7 ∧
    ∃ t m u, exec (.set 0) ((args sixSamples 2 1 7).inFlightWord 0x00000004#32) = .next t ∧ m.params = t.params ∧
      m.bufs = t.bufs ∧ m.findsArgs 2 1 9 ∧ exec (.get 0) m = .next u :=
  have ⟨t, ht⟩ := exec_is_next (.set 0) ((args sixSamples 2 1 7).inFlightWord 0x00000004#32)
  have ⟨u, hu⟩ := exec_is_next (.get 0) ((t.withArgs 2 1 9).inFlightWord 0x00000003#32)
  ⟨⟨rfl, rfl⟩, by decide, State.inFlightWord_findsArgs _ _, ⟨rfl, rfl, rfl⟩, t,
    (t.withArgs 2 1 9).inFlightWord 0x00000003#32, u, ht, rfl, rfl, State.inFlightWord_findsArgs _ _, hu⟩

/-- Exactly KMAX_TAPS samples. -/
theorem witness_KloadCopiesTheBuffer :
    (withBufs [img 16 16 (List.replicate 256 200)]).slotsPresent ∧ (3 : Slot).val < State.reset.params.nker ∧
    ((withBufs [img 16 16 (List.replicate 256 200)]).buf 0).width *
      ((withBufs [img 16 16 (List.replicate 256 200)]).buf 0).height = State.reset.params.kmaxTaps :=
  ⟨⟨rfl, rfl⟩, by decide, rfl⟩

/-- One sample more. -/
theorem witness_KloadRejectsLargeBuffers :
    (0 : Slot).val < State.reset.params.nker ∧ (0 : Slot).val < State.reset.params.nbuf ∧
    State.reset.params.kmaxTaps + 1 = ((withBufs [img 257 1 (List.replicate 257 1)]).buf 0).width *
      ((withBufs [img 257 1 (List.replicate 257 1)]).buf 0).height := ⟨by decide, by decide, rfl⟩

/-- The 5×5 impulse under a 3×3 kernel, tx = ty = 1: pixels (0, 2) and (2, 0) on the border, (1, 1) and (3, 3) the corners
of the interior, (4, 1), (1, 4) and (4, 4) untouched. -/
theorem witness_ConvPixelByPixel :
    impulse.slotsPresent ∧ 0 < (impulse.ker 0).width * (impulse.ker 0).height ∧
    (1 : Slot).val < impulse.params.nbuf ∧ (0 : Slot).val < impulse.params.nker ∧
    (∀ p ∈ [((0 : Int), (2 : Int)), (2, 0)], p.2 < 1 ∨ p.2 > 5 - 1 ∨ p.1 < 1 ∨ p.1 > 5 - 1) ∧
    (∀ p ∈ [((1 : Int), (1 : Int)), (3, 3)], 1 ≤ p.1 ∧ p.1 < 5 - 1 ∧ 1 ≤ p.2 ∧ p.2 < 5 - 1) ∧
    (∀ p ∈ [((4 : Int), (1 : Int)), (1, 4), (4, 4)],
      1 ≤ p.1 ∧ p.1 ≤ 5 - 1 ∧ 1 ≤ p.2 ∧ p.2 ≤ 5 - 1 ∧ (p.1 = 5 - 1 ∨ p.2 = 5 - 1)) :=
  ⟨⟨rfl, rfl⟩, by decide, by decide, by decide, by decide, by decide, by decide⟩

theorem witness_ConvWithEmptyKernelIsZero :
    (withKernel (ker 3 0 0 []) [img 2 2 [1, 2, 3, 4]]).slotsPresent ∧
    ((withKernel (ker 3 0 0 []) [img 2 2 [1, 2, 3, 4]]).ker 0).width *
      ((withKernel (ker 3 0 0 []) [img 2 2 [1, 2, 3, 4]]).ker 0).height = 0 :=
  ⟨⟨rfl, rfl⟩, rfl⟩

theorem witness_LiteralSumIsCentreTimesWeights :
    ∃ tx ty : Int, tx = (impulse.ker 0).width / 2 ∧ ty = (impulse.ker 0).height / 2 := ⟨_, _, rfl, rfl⟩

/-- The last tap of the last interior pixel. -/
theorem witness_CorrectedTapsStayInTheImage :
    (1 : Int) = (impulse.ker 0).width / 2 ∧ (1 : Int) = (impulse.ker 0).height / 2 ∧
    (impulse.buf 0).samples.length = (impulse.buf 0).width * (impulse.buf 0).height ∧
    (1 : Int) ≤ 3 ∧ (3 : Int) < (impulse.buf 0).width - 1 ∧ (3 : Int) < (impulse.buf 0).height - 1 ∧
    -(1 : Int) ≤ 1 ∧ (1 : Int) ≤ 1 := by decide +kernel

theorem witness_LiteralDegainedConvKeepsInterior :
    impulse.slotsPresent ∧ (impulse.buf 0).samples.length = (impulse.buf 0).width * (impulse.buf 0).height ∧
    (impulse.ker 0).wf impulse.params = true ∧ (impulse.ker 0).width % 2 = 1 ∧ (impulse.ker 0).height % 2 = 1 ∧
    sampleSum (impulse.ker 0).weights = 9 ∧ (impulse.ker 0).width / 2 ≤ 1 ∧
    3 + (impulse.ker 0).width / 2 < (impulse.buf 0).width ∧
    ∃ t, exec (.conv 1 0 0 true true false) impulse = .next t :=
  ⟨⟨rfl, rfl⟩, by decide +kernel, by decide +kernel, by decide +kernel, by decide +kernel, by decide +kernel,
    by decide +kernel, by decide +kernel, exec_is_next _ _⟩

/-- V61: a 5×1 kernel, tx = 2, and an image two columns wide. -/
theorem witness_NoInteriorMeansZeroOutput :
    (2 : Int) = (img 2 3 [5, 5, 5, 5, 5, 5]).width ∧ (2 : Int) = (ker 5 1 5 [1, 1, 1, 1, 1]).width / 2 ∧
    (2 : Int) - 2 ≤ 2 := by decide

theorem witness_DiffSampleBySample :
    planes.slotsPresent ∧ (4 : Slot).val < planes.params.nbuf ∧ (planes.buf 0).width = (planes.buf 1).width ∧
    (planes.buf 0).height = (planes.buf 1).height ∧ 1 < (planes.buf 0).width * (planes.buf 0).height :=
  ⟨⟨rfl, rfl⟩, by decide, by decide, by decide, by decide⟩

/-- Both are empty but the widths differ (E8); the heights differ and `W*H` agrees. -/
theorem witness_UnequalShapesAreRejected :
    (Instr.diff 2 0 1 true).wellFormed State.reset.params = true ∧
    (Instr.pack 0 1 2 3).wellFormed State.reset.params = true ∧
    ((withBufs [img 3 0 [], img 0 0 []]).buf 0).width ≠ ((withBufs [img 3 0 [], img 0 0 []]).buf 1).width ∧
    ((withBufs [img 1 2 [1, 2], img 2 1 [1, 2]]).buf 1).height ≠ ((withBufs [img 1 2 [1, 2], img 2 1 [1, 2]]).buf 0).height ∧
    (1 : Slot) ∈ [(1 : Slot), 2, 3] := by decide

theorem witness_PseudoInstructionsCopyAndClear :
    sixSamples.slotsPresent ∧ (3 : Slot).val < sixSamples.params.nbuf ∧ (0 : Slot).val < sixSamples.params.nbuf ∧
    (sixSamples.buf 0).samples.length = (sixSamples.buf 0).width * (sixSamples.buf 0).height ∧ sixSamples.operand0 = 0 :=
  ⟨⟨rfl, rfl⟩, by decide, by decide, by decide, by decide⟩

/-- The smallest scale, 2, on 5×5: the output is 2×2 and its last pixel is (1, 1). -/
theorem witness_ScaledownAveragesBlocks :
    (args impulse 2 0 0).slotsPresent ∧
    ((args impulse 2 0 0).buf 0).samples.length = ((args impulse 2 0 0).buf 0).width * ((args impulse 2 0 0).buf 0).height ∧
    ((2 : Nat) : Int) = signedOperand (args impulse 2 0 0).operand0 ∧ 1 < ((args impulse 2 0 0).buf 0).width / 2 :=
  ⟨⟨rfl, rfl⟩, by decide, by decide, by decide⟩

theorem witness_ScaledownRejectsSmallScales :
    (1 : Slot).val < State.reset.params.nbuf ∧ signedOperand (args State.reset 1 0 0).operand0 = 1 ∧
    signedOperand (args State.reset (-2) 0 0).operand0 ≤ 1 := by decide

theorem witness_PackInterleavesPlanes :
    (Instr.pack 0 1 2 3).wellFormed planes.params = true ∧
    (∀ p ∈ [(0 : Slot), 1, 2, 3], (planes.buf p).width = (planes.buf 0).width ∧
      (planes.buf p).height = (planes.buf 0).height) ∧ 1 < (planes.buf 0).width * (planes.buf 0).height := by decide

/-- Four different slots name the four lanes, and in `UNPACK b1, b1, b1, b2` slot b1 holds the blue lane. Sample 0 of each
is defined in `onePixel`. -/
theorem witness_UnpackSplitsChannels :
    (args onePixel 1 1 0).slotsPresent ∧ (Instr.unpack 1 2 3 4).wellFormed onePixel.params = true ∧
    0 ≤ signedOperand (args onePixel 1 1 0).operand0 ∧ 0 ≤ signedOperand (args onePixel 1 1 0).operand1 ∧
    signedOperand (args onePixel 1 1 0).operand0 * signedOperand (args onePixel 1 1 0).operand1 ≤
      onePixel.params.slotWords ∧
    ((1 : Slot) ∉ [(2 : Slot), 3, 4] ∧ (2 : Slot) ∉ [(3 : Slot), 4] ∧ (3 : Slot) ≠ 4) ∧
    (Instr.unpack 1 1 1 2).wellFormed onePixel.params = true ∧ (1 : Slot) ≠ 2 ∧
    onePixel.pm.read 0 = some 0x01#8 ∧ onePixel.pm.read 3 = some 0x80#8 :=
  ⟨⟨rfl, rfl⟩, by decide, by decide, by decide, by decide, by decide, by decide, by decide, by decide, by decide⟩

/-- The state a PACK of the planes leaves. -/
def packedPlanes : State :=
  (planes.setPacked (interleaved planes.pm (planes.buf 0) (planes.buf 1) (planes.buf 2) (planes.buf 3)
    ((planes.buf 0).width * (planes.buf 0).height)) ((planes.buf 0).width * (planes.buf 0).height) (planes.buf 0).width
    (planes.buf 0).height).complete .ok

/-- Samples 0 and 255 come back; -1 gives 0. The UNPACK is in flight. -/
theorem witness_PackThenUnpackRoundTrip :
    planes.Inv ∧ (Instr.pack 0 1 2 3).wellFormed planes.params = true ∧
    (Instr.unpack 4 5 6 7).wellFormed planes.params = true ∧
    (∀ p ∈ [(0 : Slot), 1, 2, 3], (planes.buf p).width = (planes.buf 0).width ∧
      (planes.buf p).height = (planes.buf 0).height) ∧
    [(4 : Slot), 5, 6, 7].Nodup ∧ ((planes.buf 0).at 0).toInt = 0 ∧ ((planes.buf 0).at 1).toInt = 255 ∧
    ((planes.buf 2).at 0).toInt < 0 ∧
    ∃ t m u, exec (.pack 0 1 2 3) planes = .next t ∧ m.params = t.params ∧ m.slotsPresent ∧ m.pm = t.pm ∧
      m.findsArgs (BitVec.ofNat 32 (planes.buf 0).width) (BitVec.ofNat 32 (planes.buf 0).height) 0 ∧
      exec (.unpack 4 5 6 7) m = .next u :=
  have ⟨u, hu⟩ := exec_is_next (.unpack 4 5 6 7) ((packedPlanes.withArgs (BitVec.ofNat 32 (planes.buf 0).width)
    (BitVec.ofNat 32 (planes.buf 0).height) 0).inFlightWord 0x0076540B#32)
  ⟨inv_planes, by decide, by decide, by decide, by decide, by decide, by decide, by decide, packedPlanes,
    (packedPlanes.withArgs (BitVec.ofNat 32 (planes.buf 0).width) (BitVec.ofNat 32 (planes.buf 0).height) 0).inFlightWord
      0x0076540B#32, u,
    exec_of_effect (by decide) (.pack 0 1 2 3 (by decide) (by decide) (by decide)), rfl, ⟨rfl, rfl⟩, rfl,
    State.inFlightWord_findsArgs _ _, hu⟩

/-- The frames' only hypothesis is that the command answers a next state: every command does. -/
theorem witness_BufferCommandsFrame :
    (∃ t, exec (.create 1) planes = .next t) ∧ (∃ t, exec (.release 1) planes = .next t) ∧
    (∃ t, exec (.set 1) planes = .next t) ∧ (∃ t, exec (.fill 1) planes = .next t) ∧
    (∃ t, exec (.conv 1 0 0 true true true) impulse = .next t) ∧ (∃ t, exec (.diff 4 0 1 true) planes = .next t) ∧
    ∃ t, exec (.scaledown 1 0) (args impulse 2 0 0) = .next t :=
  ⟨exec_is_next _ _, exec_is_next _ _, exec_is_next _ _, exec_is_next _ _, exec_is_next _ _, exec_is_next _ _,
    exec_is_next _ _⟩

theorem witness_NopGetKloadFrame :
    (∃ t, exec .nop planes = .next t) ∧ (∃ t, exec (.get 0) planes = .next t) ∧ ∃ t, exec (.kload 0 1) planes = .next t :=
  ⟨exec_is_next _ _, exec_is_next _ _, exec_is_next _ _⟩

/-- A PACK that succeeds, and one that fails. -/
theorem witness_PackFrame :
    nextWith (exec (.pack 0 1 2 3) planes) (fun t => t.err == .ok) = true ∧
    nextWith (exec (.pack 0 1 2 4) planes) (fun t => t.err == .dimensionMismatch) = true := by decide +kernel

/-- Every byte read is defined. -/
theorem witness_UnpackFrame :
    (∃ t, exec (.unpack 1 2 3 4) (args onePixel 1 1 0) = .next t) ∧
    4 * (signedOperand (args onePixel 1 1 0).operand0 * signedOperand (args onePixel 1 1 0).operand1) = 4 ∧
    ∀ k ∈ [0, 1, 2, 3], ((args onePixel 1 1 0).pm.read k).isSome = true :=
  ⟨exec_is_next _ _, by decide, by decide⟩

/-- Two states that differ in the GAIN of b0. -/
theorem witness_NoCommandReadsGainOrStatus :
    planes.withoutGains = (planes.setBuf 0 { planes.buf 0 with gain := 0x40000000#32 }).withoutGains ∧
    planes ≠ planes.setBuf 0 { planes.buf 0 with gain := 0x40000000#32 } ∧ (∃ t, exec (.diff 4 0 1 true) planes = .next t) ∧
    ∃ t, exec (.diff 4 0 1 true) (planes.setBuf 0 { planes.buf 0 with gain := 0x40000000#32 }) = .next t :=
  ⟨by decide +kernel, by decide +kernel, exec_is_next _ _, exec_is_next _ _⟩

/-- A SET in flight that latched 2, 1, 7 while the ARG registers hold other values by now. FILL reads ARG0 alone, so ARG1 and
ARG2 may differ, latched or not. -/
theorem witness_CommandsReadOnlyTheirArgs :
    (args ((args sixSamples 2 1 7).inFlightWord 0x00000004#32) 5 5 5).inFlight =
      some { word := 0x00000004#32, arg0 := 2, arg1 := 1, arg2 := 7, slack := 0 } ∧
    (∃ t, exec (.set 0) ((args ((args sixSamples 2 1 7).inFlightWord 0x00000004#32) 5 5 5).withArgs 2 1 7) = .next t) ∧
    planes.inFlight = none ∧
    (1 ≤ argCount (.fill 0) → (5 : Word) = 5) ∧ (2 ≤ argCount (.fill 0) → (1 : Word) = 2) ∧
    (3 ≤ argCount (.fill 0) → (3 : Word) = 4) ∧ (∃ t, exec (.fill 0) (planes.withArgs 5 1 3) = .next t) ∧
    ∃ t, exec (.fill 0) { planes with inFlight := some { word := 5, arg0 := 5, arg1 := 1, arg2 := 3, slack := 0 } } =
      .next t :=
  ⟨rfl, exec_is_next _ _, rfl, fun _ => rfl, by decide, by decide, exec_is_next _ _, exec_is_next _ _⟩

/-- R83, R205: the SET in flight writes the latched 7 at (2, 1), not what the ARG registers hold by now. -/
theorem test_latched_operands :
    nextWith (step (args ((args sixSamples 2 1 7).inFlightWord 0x00000004#32) 0 0 5))
      (fun t => t.buf 0 == img 3 2 [10, 11, 12, 13, 14, 7]) = true := by decide +kernel

/-- The last slot there is and the first there is not, in either bank. -/
theorem witness_BufferDescriptors :
    (7 : Slot).val < State.reset.params.nbuf ∧ State.reset.params.nbuf ≤ (8 : Slot).val ∧ 0xC ∈ [0x0, 0x4, 0x8, 0xC] := by
  decide

theorem witness_KernelDescriptors :
    (3 : Slot).val < State.reset.params.nker ∧ State.reset.params.nker ≤ (4 : Slot).val ∧
    0x200 ≤ 0x208 ∧ 0x2FF < 0x300 := by decide

/-- PCOUNT, and the GAIN of a slot that is not there, are neither of them written. -/
theorem witness_RegisterWrites :
    (2#32).getLsbD 1 = true ∧ (1#32).getLsbD 1 = false ∧ 0x018 ∉ [0x000, 0x004, 0x008, 0x00C, 0x010] ∧
    0x188 ∉ [0x000, 0x004, 0x008, 0x00C, 0x010] ∧
    ∀ d : Slot, d.val < State.reset.params.nbuf → 0x018 ≠ 0x100 + 0x10 * d.val + 0x8 ∧ 0x188 ≠ 0x100 + 0x10 * d.val + 0x8 := by
  decide

theorem witness_CmdWriteIssuesTheCommand :
    (moves State.reset [wr Params.default 0x000 0x00000001]).inFlight = none ∧
    (moves State.reset [wr Params.default 0x000 0x00000001]).resetAsserted = false ∧
    (moves State.reset [wr Params.default 0x000 0x00000001]).hostQueue =
      [wr (moves State.reset [wr Params.default 0x000 0x00000001]).params 0x000 0x00000001] ∧
    ∃ t, step (moves State.reset [wr Params.default 0x000 0x00000001]) = .next t ∧ t.inFlight ≠ none :=
  ⟨rfl, rfl, rfl, _, rfl, by decide⟩

/-- The first and last reserved offsets below the descriptors, and the first above them. -/
theorem witness_ControlRegistersRead :
    (0x024 ≤ 0x024 ∧ 0x024 < 0x100) ∧ (0x024 ≤ 0x0FC ∧ 0x0FC < 0x100) ∧ 0x300 ≤ 0x300 := by decide

/-- A CMD write is held; a STATUS read lands while slack is left. -/
theorem witness_AccessesAreHeldWhileBusy :
    (∃ c, (busyNop 1 [wr Params.default 0x000 0]).inFlight = some c ∧
      (busyNop 1 [wr Params.default 0x000 0]).hostQueue = [wr Params.default 0x000 0] ∧
      (wr Params.default 0x000 0).lands (busyNop 1 [wr Params.default 0x000 0]).params = false) ∧
    ∃ c, (busyNop 1 [rd Params.default 0x010]).inFlight = some c ∧
      (busyNop 1 [rd Params.default 0x010]).resetAsserted = false ∧ 0 < c.slack ∧
      (busyNop 1 [rd Params.default 0x010]).hostQueue = [rd (busyNop 1 [rd Params.default 0x010]).params 0x010] :=
  ⟨⟨_, rfl, rfl, by decide⟩, _, rfl, rfl, by decide, rfl⟩

/-- The first and the last word of the window, its last byte, and the first offset above it. -/
theorem witness_PackedWindowIsLittleEndian :
    (AccessSize.word, 4) ∈ [(AccessSize.byte, 1), (.half, 2), (.word, 4)] ∧ 0x100000 % 4 = 0 ∧ 0x13FFFC % 4 = 0 ∧
    (AccessSize.byte, 1) ∈ [(AccessSize.byte, 1), (.half, 2), (.word, 4)] ∧ 0x13FFFF % 1 = 0 ∧
    0x13FFFF < 0x100000 + 4 * State.reset.params.slotWords ∧ 0x100000 + 4 * State.reset.params.slotWords ≤ 0x140000 := by
  decide

/-- A read of a defined packed word, the next move with no command in flight and reset released. The first and the last byte
of the aperture. A read and a write of the last register, a byte of the packed window, and a half word at the end of the
aperture, above the window. -/
theorem witness_LegalAccessesArePerformed :
    ((moves onePixel [acc 0x100000 .word .read]).inFlight = none ∧
      (moves onePixel [acc 0x100000 .word .read]).resetAsserted = false ∧
      (moves onePixel [acc 0x100000 .word .read]).hostQueue = [acc 0x100000 .word .read] ∧
      onePixel.params.apertureBase ≤ 0 ∧ 0x1FFFFF < onePixel.params.apertureBase + 0x200000) ∧
    ((AccessSize.word, 4) ∈ [(AccessSize.byte, 1), (.half, 2), (.word, 4)] ∧
      0x0FFFFC = onePixel.params.apertureBase + 0x0FFFFC ∧ 0x0FFFFC % 4 = 0 ∧ 0x0FFFFC < 0x100000) ∧
    (0x100000 % 4 = 0 ∧ 0x100000 < 0x100000 + 4 * onePixel.params.slotWords ∧
      ∀ j, j < 4 → (onePixel.pm.read (0x100000 - 0x100000 + j)).isSome = true) ∧
    ((AccessSize.byte, 1) ∈ [(AccessSize.byte, 1), (.half, 2), (.word, 4)] ∧ 0x100003 % 1 = 0) ∧
    (AccessSize.half, 2) ∈ [(AccessSize.byte, 1), (.half, 2), (.word, 4)] ∧ 0x1FFFFE % 2 = 0 ∧
    0x100000 + 4 * onePixel.params.slotWords ≤ 0x1FFFFE := by decide

/-- Each kind of illegal access, at the edge of its region. -/
theorem witness_IllegalAccessesAreRefused :
    (moves State.reset [acc 0x0FFFFE .word .read]).inFlight = none ∧
    (moves State.reset [acc 0x0FFFFE .word .read]).resetAsserted = false ∧
    0x0FFFFE = State.reset.params.apertureBase + 0x0FFFFE ∧ 0x0FFFFE < 0x200000 ∧
    (0x0FFFFE < 0x100000 ∧ 0x0FFFFE % 4 ≠ 0) ∧ (AccessSize.byte ≠ .word ∧ AccessSize.half ≠ .word) ∧
    (0x100000 ≤ 0x100001 ∧ 0x100001 % 2 ≠ 0) ∧ 0x100002 % 4 ≠ 0 ∧ 0x1FFFFF < 0x200000 ∧ 0x1FFFFF % 2 ≠ 0 := by decide

theorem witness_StepStopsOnlyOnForeignOrResetAccess :
    step (moves State.reset [acc 0x200000 .word .read]) = .fault .outsideAperture ∧
    step (moves { State.reset with resetAsserted := true } [rd Params.default 0x010]) = .refused .accessDuringReset :=
  ⟨rfl, rfl⟩

/-- A step that runs a command, and one that makes a host access. -/
theorem witness_StepKeepsInvariant :
    (busyNop 0 []).Inv ∧ (∃ t, step (busyNop 0 []) = .next t) ∧ (busyNop 1 [rd Params.default 0x010]).Inv ∧
    ∃ t, step (busyNop 1 [rd Params.default 0x010]) = .next t :=
  ⟨inv_busyNop _ _, ⟨_, rfl⟩, inv_busyNop _ _, ⟨_, rfl⟩⟩

theorem witness_StepKeepsSlotsPresent :
    (busyNop 0 []).slotsPresent ∧ ∃ t, step (busyNop 0 []) = .next t := ⟨⟨rfl, rfl⟩, _, rfl⟩

/-- A KLOAD, a GET and a PACK in flight, each of which changes what it may; the last with a reset queued that does not
land, and a reset that does. -/
theorem witness_OnlyOneCommandWritesEach :
    nextWith (step (planes.inFlightWord 0x00000006#32)) (fun t => t.kers != planes.kers) = true ∧
    nextWith (step (sixSamples.inFlightWord 0x00000003#32)) (fun t => t.result != sixSamples.result) = true ∧
    nextWith (step (moves (planes.inFlightWord 0x0032100A#32) [.assertReset])) (fun t => t.pcount != planes.pcount) =
      true ∧
    nextWith (step (moves (planes.setResult 7) [.assertReset])) (fun t => t.result != (planes.setResult 7).result) =
      true := by decide +kernel

/-- A write of BUF_GAIN(0). -/
theorem witness_HostCannotWriteSamples :
    (moves planes [wr Params.default 0x108 0x40000000#32]).inFlight = none ∧
    (∀ rest, (moves planes [wr Params.default 0x108 0x40000000#32]).hostQueue ≠ .assertReset :: rest) ∧
    nextWith (step (moves planes [wr Params.default 0x108 0x40000000#32])) (fun t => t.bufs != planes.bufs) = true :=
  ⟨rfl, fun rest h => (by cases h), by decide +kernel⟩

end Sys2Proof.Tests
end

section
/-! PROOFS. 00_scope.md: what CREATE, RELEASE, GET and SET leave (R14 to R17, R100 to R103), and that every step keeps the
parameters and the number of slots (R6, R30, R35). -/

namespace Sys2Proof

/-! ## Slot fields in range (30_encoding.md R92) -/

theorem Params.bufferSlotOk_iff {p : Params} {d : Slot} : p.bufferSlotOk d = true ↔ d.val < p.nbuf := decide_eq_true_iff

end Sys2Proof

namespace Sys2Proof.Machine

/-! ## A command that succeeds -/

/-- No command's pseudocode writes ERR_STICKY: only completion does (60_exceptions.md R182). -/
theorem Effect.errSticky {s u : State} {i : Instr} (h : Effect s i u) : u.errSticky = s.errSticky := by
  cases h <;> simp

/-- The STATUS that success leaves: BUSY 0, ERR 0, ERR_STICKY as before (10_state.md R43, R45). -/
theorem Effect.statusCompleted {s u : State} {i : Instr} (h : Effect s i u) : StatusCompleted s (u.complete .ok) :=
  ⟨rfl, by simp [h.errSticky]⟩

/-- A command whose effect is to write the buffer `b` into an existing slot succeeds and leaves `b` there. -/
theorem exec_of_setBuf {s : State} {i : Instr} {d : Slot} {b : Buffer} (hp : s.slotsPresent) (hd : d.val < s.params.nbuf)
    (h : Effect s i (s.setBuf d b)) (hw : i.wellFormed s.params = true) :
    ∃ t, exec i s = .next t ∧ t.err = .ok ∧ StatusCompleted s t ∧ t.buf d = b := by
  obtain ⟨hbufs, -⟩ := hp
  exact ⟨_, exec_of_effect hw h, rfl, h.statusCompleted, State.buf_setBuf_self b (hbufs ▸ hd)⟩

/-! ## Samples -/

/-- A value operand is bits 15:0 of its register (30_encoding.md R96). -/
theorem valueOperand_eq_setWidth (w : Word) : valueOperand w = w.setWidth 16 := by
  ext i hi; simp [valueOperand]

/-- A buffer with no columns reads as the sentinel everywhere (R14). -/
theorem Buffer.get_of_width_zero {b : Buffer} (h : b.width = 0) (x y : Int) : b.get x y = sentinel := by
  rw [Buffer.get_eq, if_neg (by simp [h])]

/-- Off the grid, Get reads the sentinel (R14). -/
theorem Buffer.get_off_grid {b : Buffer} {x y : Int}
    (h : x + y * b.width < 0 ∨ (b.width : Int) * b.height ≤ x + y * b.width) : b.get x y = sentinel := by
  rw [Buffer.get_eq, if_neg (by omega)]

/-- With the flat index in range, Get reads the sample there (R14). -/
theorem Buffer.get_of_getElem? {b : Buffer} {x y : Int} {v : Sample} (h₁ : 0 ≤ x + y * b.width)
    (h₂ : x + y * b.width < (b.width : Int) * b.height) (hv : b.samples[(x + y * b.width).toNat]? = some v) :
    b.get x y = v := by
  rw [Buffer.get_eq, if_pos ⟨h₁, h₂⟩, List.getD_eq_getElem?_getD, hv, Option.getD_some]

/-- Set writes the sample at the flat index if that is in range, and no other (R15). -/
theorem Buffer.set_getElem? (b : Buffer) (x y : Int) (v : Sample) (j : Nat) :
    (b.set x y v).samples[j]? =
      if 0 ≤ x + y * b.width ∧ x + y * b.width < (b.width : Int) * b.height ∧ (j : Int) = x + y * b.width then
        b.samples[j]?.map fun _ => v
      else b.samples[j]? := by
  by_cases hg : 0 ≤ x + y * b.width ∧ x + y * b.width < (b.width : Int) * b.height
  · rw [Buffer.set, if_pos (inGrid_flatIndex_iff.mpr hg), flatIndex, List.getElem?_set']
    by_cases hj : (j : Int) = x + y * b.width
    · rw [if_pos (by omega), if_pos ⟨hg.1, hg.2, hj⟩]; rfl
    · rw [if_neg (by omega), if_neg (by tauto)]
  · rw [Buffer.set, if_neg (mt inGrid_flatIndex_iff.mp hg), if_neg (by tauto)]

/-! ## The parameters and the number of slots -/

/-- `t` has the parameters of `s`, and as many buffer and kernel slots. -/
structure SameLayout (s t : State) : Prop where
  params : t.params = s.params
  bufs : t.bufs.length = s.bufs.length
  kers : t.kers.length = s.kers.length

namespace SameLayout

theorem refl (s : State) : SameLayout s s := ⟨rfl, rfl, rfl⟩

theorem trans {s t u : State} (h₁ : SameLayout s t) (h₂ : SameLayout t u) : SameLayout s u :=
  ⟨h₂.params.trans h₁.params, h₂.bufs.trans h₁.bufs, h₂.kers.trans h₁.kers⟩

theorem slotsPresent {s t : State} (h : SameLayout s t) (hs : s.slotsPresent) : t.slotsPresent := by
  obtain ⟨hb, hk⟩ := hs
  exact ⟨by rw [h.bufs, h.params, hb], by rw [h.kers, h.params, hk]⟩

theorem setBuf (s : State) (d : Slot) (b : Buffer) : SameLayout s (s.setBuf d b) := ⟨rfl, by simp, rfl⟩

theorem setKer (s : State) (k : Slot) (v : Kernel) : SameLayout s (s.setKer k v) := ⟨rfl, rfl, by simp⟩

theorem complete (s : State) (e : ErrorCode) : SameLayout s (s.complete e) := ⟨rfl, rfl, rfl⟩

theorem takeMove (s : State) (rest : List HostMove) : SameLayout s (s.takeMove rest) := ⟨rfl, rfl, rfl⟩

theorem afterPackedRead (s : State) (a n : Nat) : SameLayout s (s.afterPackedRead a n) := ⟨by simp, by simp, by simp⟩

end SameLayout

theorem Effect.sameLayout {s u : State} {i : Instr} (h : Effect s i u) : SameLayout s u := by
  cases h with
  | nop => exact .refl s
  | get => exact ⟨rfl, rfl, rfl⟩
  | pack => exact ⟨rfl, rfl, rfl⟩
  | kload => exact .setKer ..
  | create | release | set | fill | conv | diff | scaledown => exact .setBuf ..
  | unpack =>
    exact .trans (.trans (.trans (.trans (.afterPackedRead ..) (.setBuf ..)) (.setBuf ..)) (.setBuf ..)) (.setBuf ..)

theorem exec_sameLayout {i : Instr} {s t : State} (h : exec i s = .next t) : SameLayout s t := by
  rcases exec_cases h with ⟨e, rfl⟩ | ⟨u, -, hu, rfl⟩
  · exact .complete s e
  · exact hu.sameLayout.trans (.complete u _)

theorem runWord_sameLayout {w : Word} {s t : State} (h : runWord w s = .next t) : SameLayout s t := by
  rcases runWord_cases w s with ⟨e, -, hr⟩ | ⟨i, -, hr⟩
  · obtain rfl := Host.Outcome.next.inj (hr.symm.trans h)
    exact .complete s _
  · exact exec_sameLayout (hr.symm.trans h)

theorem State.writeReg_sameLayout (s : State) (off : Nat) (v : Word) : SameLayout s (s.writeReg off v) := by
  rcases s.writeReg_cases off v with h | h | h | h | h | h | ⟨d, h⟩ <;> rw [h]
  iterate 6 · exact ⟨rfl, rfl, rfl⟩
  · exact .setBuf ..

theorem State.afterWrite_sameLayout (s : State) (size : AccessSize) (off : Nat) (v : Word) :
    SameLayout s (s.afterWrite size off v) := by
  rcases s.afterWrite_cases size off v with ⟨-, h⟩ | ⟨-, h⟩ | h <;> rw [h]
  · exact s.writeReg_sameLayout off v
  · exact ⟨rfl, rfl, rfl⟩
  · exact .refl s

theorem State.afterRead_sameLayout (s : State) (size : AccessSize) (off : Nat) : SameLayout s (s.afterRead size off) := by
  rcases s.afterRead_cases size off with h | h <;> rw [h] <;> exact ⟨rfl, rfl, rfl⟩

theorem State.access_sameLayout (s : State) (a : Access) : SameLayout s (s.access a) := by
  rcases s.access_cases a with ⟨-, h⟩ | ⟨-, -, h⟩ | ⟨v, -, -, h⟩ <;> rw [h]
  · exact ⟨rfl, rfl, rfl⟩
  · exact .trans (s.afterRead_sameLayout ..) ⟨rfl, rfl, rfl⟩
  · exact .trans (s.afterWrite_sameLayout ..) ⟨rfl, rfl, rfl⟩

/-- Reset keeps the parameters and makes every slot anew, however many there were (10_state.md R52). -/
theorem State.underReset_slotsPresent (s : State) : s.underReset.slotsPresent :=
  ⟨List.length_replicate, List.length_replicate⟩

/-- A host step keeps the layout, or is the reset that makes the slots anew. -/
theorem hostStep_sameLayout_or_reset {s t : State} (h : hostStep s = .next t) :
    SameLayout s t ∨ ∃ rest, t = (s.takeMove rest).underReset := by
  rcases hostStep_cases h with ⟨-, rfl⟩ | ⟨m, rest, -, ⟨-, rfl⟩ | ⟨-, rfl⟩ | ⟨a, -, -, -, rfl⟩⟩
  · exact .inl (.refl _)
  · exact .inr ⟨rest, rfl⟩
  · exact .inl ⟨rfl, rfl, rfl⟩
  · exact .inl (.trans (.takeMove s rest) (State.access_sameLayout ..))

/-! ## The obligations -/

/-- Settles O16: admitted dimensions are CREATE's `Effect`, a new buffer in the slot. -/
theorem createMakesZeroBuffer : Obligations.CreateMakesZeroBuffer := by
  intro s d hp hd hw hh hc
  obtain ⟨t, ht, herr, hst, hb⟩ := exec_of_setBuf hp hd
    (.create d _ _ (checkedDims_eq_ok_iff.mpr ⟨hw, hh, hc, rfl, rfl⟩)) (Params.bufferSlotOk_iff.mpr hd)
  refine ⟨t, ht, herr, hst, ?_⟩
  rw [hb]
  exact ⟨Int.toNat_of_nonneg hw, Int.toNat_of_nonneg hh, rfl, by simp, fun v hv => List.eq_of_mem_replicate hv⟩

/-- Settles O18: RELEASE leaves the new buffer of no samples, which has no column to read. -/
theorem releaseEmptiesTheSlot : Obligations.ReleaseEmptiesTheSlot := by
  intro s d hp hd
  obtain ⟨t, ht, herr, hst, hb⟩ := exec_of_setBuf hp hd (.release d) (Params.bufferSlotOk_iff.mpr hd)
  refine ⟨t, ht, herr, hst, hb, fun x y => ?_⟩
  rw [hb]
  exact Buffer.get_of_width_zero rfl x y

/-- Settles O19: RESULT takes what Get reads, in range and out of it. -/
theorem getReadsTheFlatIndex : Obligations.GetReadsTheFlatIndex := by
  intro s src hsrc
  have he : Effect s (.get src) _ := .get src
  refine ⟨_, exec_of_effect (Params.bufferSlotOk_iff.mpr hsrc) he, rfl, he.statusCompleted, ?_⟩
  rintro idx rfl
  simp only [State.complete_result, State.setResult_result]
  constructor
  · intro h₁ h₂ v hv
    rw [Buffer.get_of_getElem? h₁ h₂ hv]
  · intro hoff
    rw [Buffer.get_off_grid hoff]
    rfl

/-- Settles O20: the slot takes what Set makes of its buffer, described sample by sample. -/
theorem setWritesTheFlatIndex : Obligations.SetWritesTheFlatIndex := by
  intro s d hp hd
  obtain ⟨t, ht, herr, hst, hb⟩ := exec_of_setBuf hp hd (.set d) (Params.bufferSlotOk_iff.mpr hd)
  refine ⟨t, ht, herr, hst, ?_⟩
  rw [hb, valueOperand_eq_setWidth]
  refine ⟨Buffer.set_width .., Buffer.set_height .., Buffer.set_gain .., ?_⟩
  rintro idx rfl j
  exact Buffer.set_getElem? ..

/-- Settles O58: a command and an access keep the layout, and a reset makes the slots anew. -/
theorem stepKeepsSlotsPresent : Obligations.StepKeepsSlotsPresent := by
  intro s s' h
  have hcase : SameLayout s s' ∨ ∃ rest, s' = (s.takeMove rest).underReset := by
    rcases step_cases s with ⟨c, -, -, hs⟩ | ⟨-, hs⟩ <;> rw [hs] at h
    · exact .inl (runWord_sameLayout h)
    · exact hostStep_sameLayout_or_reset h
  rcases hcase with hl | ⟨rest, rfl⟩
  · exact ⟨hl.params, hl.slotsPresent⟩
  · exact ⟨rfl, fun _ => State.underReset_slotsPresent _⟩

end Sys2Proof.Machine
end

section
/-! PROOFS. 10_state.md: what each command and each host access leaves unchanged (R32 to R36, R41, R46, R47), the invariant of
the machine under every step (R30 to R50), STATUS (R42 to R45) and reset (R52, R200, R201), the planes of UNPACK (R166 to
R169), and that no command reads GAIN or STATUS (R33, R49). -/

namespace Sys2Proof.Machine

/-! ## What a command writes: one frame for all twelve -/

/-- The buffer slots a command writes (10_state.md R34). -/
def bufDests : Instr → List Slot
  | .create d | .release d | .set d | .fill d | .conv d .. | .diff d .. | .scaledown d .. => [d]
  | .unpack r g b a => [r, g, b, a]
  | .nop | .get .. | .kload .. | .pack .. => []

/-- What the command `i` leaves as it was in going from `s` to `t`: only KLOAD writes kernels (R36), only GET RESULT (R46),
only PACK packed memory and its counts (R47), and only UNPACK uses up a draw (log 4). -/
structure FrameOf (i : Instr) (s t : State) : Prop where
  interface : SameInterface s t
  bufs : SameBufsExcept (bufDests i) s t
  kers : (∀ k src, i ≠ .kload k src) → t.kers = s.kers
  result : (∀ src, i ≠ .get src) → SameResult s t
  counts : (∀ r g b a, i ≠ .pack r g b a) → SamePackCounts s t
  pm : (∀ r g b a, i ≠ .pack r g b a) → t.pm = s.pm
  draws : (∀ r g b a, i ≠ .unpack r g b a) → SameDraws s t

theorem SameInterface.refl (s : State) : SameInterface s s := ⟨rfl, rfl, rfl, rfl, rfl, rfl, rfl, rfl, rfl, rfl⟩

theorem SameBufsExcept.of_eq {s t : State} (ds : List Slot) (h : t.bufs = s.bufs) : SameBufsExcept ds s t :=
  ⟨by rw [h], fun e _ => by rw [State.buf, h, State.buf]⟩

theorem SameBufsExcept.setBuf {ds : List Slot} {s t : State} {d : Slot} (b : Buffer) (hd : d ∈ ds)
    (h : SameBufsExcept ds s t) : SameBufsExcept ds s (t.setBuf d b) := by
  obtain ⟨hl, hb⟩ := h
  refine ⟨by simp [hl], fun e he => ?_⟩
  rw [State.buf_setBuf_ne _ _ (ne_of_mem_of_not_mem hd he).symm, hb e he]

theorem SameKersExcept.of_eq {s t : State} (ks : List Slot) (h : t.kers = s.kers) : SameKersExcept ks s t :=
  ⟨by rw [h], fun k _ => by rw [State.ker, h, State.ker]⟩

theorem SameKersExcept.setKer (s : State) (k : Slot) (v : Kernel) : SameKersExcept [k] s (s.setKer k v) :=
  ⟨by simp, fun _ hl => State.ker_setKer_ne s v (List.ne_of_not_mem_cons hl)⟩

theorem SamePackedFrom.of_eq {s t : State} (n : Nat) (h : t.pm = s.pm) : SamePackedFrom n s t := fun _ _ => by rw [h]

namespace FrameOf

theorem refl (i : Instr) (s : State) : FrameOf i s s :=
  ⟨.refl s, .of_eq _ rfl, fun _ => rfl, fun _ => rfl, fun _ => ⟨rfl, rfl, rfl⟩, fun _ => rfl, fun _ => rfl⟩

theorem complete {i : Instr} {s u : State} (h : FrameOf i s u) (e : ErrorCode) : FrameOf i s (u.complete e) :=
  ⟨h.interface, h.bufs, h.kers, h.result, h.counts, h.pm, h.draws⟩

theorem setBuf {i : Instr} {s u : State} {d : Slot} (h : FrameOf i s u) (b : Buffer) (hd : d ∈ bufDests i) :
    FrameOf i s (u.setBuf d b) :=
  ⟨h.interface, h.bufs.setBuf b hd, h.kers, h.result, h.counts, h.pm, h.draws⟩

theorem afterPackedRead (r g b a : Slot) (s : State) (x n : Nat) :
    FrameOf (.unpack r g b a) s (s.afterPackedRead x n) := by
  unfold State.afterPackedRead
  split
  · exact refl _ s
  · exact ⟨.refl s, .of_eq _ rfl, fun _ => rfl, fun _ => rfl, fun _ => ⟨rfl, rfl, rfl⟩, fun _ => rfl,
      fun h => absurd rfl (h r g b a)⟩

end FrameOf

theorem Effect.frameOf {s u : State} {i : Instr} (h : Effect s i u) : FrameOf i s u := by
  cases h with
  | nop => exact .refl _ s
  | create | release | set | fill | conv | diff | scaledown => exact (FrameOf.refl _ s).setBuf _ List.mem_cons_self
  | get src =>
    exact ⟨.refl s, .of_eq _ rfl, fun _ => rfl, fun h => absurd rfl (h src), fun _ => ⟨rfl, rfl, rfl⟩, fun _ => rfl, fun _ => rfl⟩
  | kload k src =>
    exact ⟨.refl s, .of_eq _ rfl, fun h => absurd rfl (h k src), fun _ => rfl, fun _ => ⟨rfl, rfl, rfl⟩, fun _ => rfl,
      fun _ => rfl⟩
  | pack r g b a =>
    exact ⟨.refl s, .of_eq _ rfl, fun _ => rfl, fun _ => rfl, fun h => absurd rfl (h r g b a),
      fun h => absurd rfl (h r g b a), fun _ => rfl⟩
  | unpack r g b a =>
    exact ((((FrameOf.afterPackedRead r g b a s _ _).setBuf _ (by simp [bufDests])).setBuf _ (by simp [bufDests])).setBuf _
      (by simp [bufDests])).setBuf _ (by simp [bufDests])

theorem exec_frameOf {i : Instr} {s t : State} (h : exec i s = .next t) : FrameOf i s t := by
  rcases exec_cases h with ⟨e, rfl⟩ | ⟨u, -, hu, rfl⟩
  · exact (FrameOf.refl i s).complete e
  · exact hu.frameOf.complete .ok

/-- Every command leaves BUSY 0 and sets ERR_STICKY by its code (10_state.md R43, R45). -/
theorem exec_statusCompleted {i : Instr} {s t : State} (h : exec i s = .next t) : StatusCompleted s t := by
  rcases exec_cases h with ⟨e, rfl⟩ | ⟨u, -, hu, rfl⟩
  · exact ⟨rfl, rfl⟩
  · exact hu.statusCompleted

/-- A command that reports an error left the rest as it was (60_exceptions.md R180). -/
theorem exec_eq_complete_of_err {i : Instr} {s t : State} (h : exec i s = .next t) (he : t.err ≠ .ok) :
    ∃ e, t = s.complete e := by
  rcases exec_cases h with hc | ⟨u, -, -, rfl⟩
  · exact hc
  · exact absurd rfl he

/-- Settles O40: the frame of `exec`, for the commands that write one buffer slot. -/
theorem bufferCommandsFrame : Obligations.BufferCommandsFrame := by
  intro s t i d hi h
  have hf := exec_frameOf h
  have hs := exec_statusCompleted h
  rcases hi with rfl | rfl | rfl | rfl | ⟨_, _, _, _, _, rfl⟩ | ⟨_, _, _, rfl⟩ | ⟨_, rfl⟩
  all_goals exact ⟨hf.interface, hf.result nofun, hf.counts nofun, .of_eq 0 (hf.pm nofun), .of_eq [] (hf.kers nofun),
    hf.draws nofun, hf.bufs, hs⟩

/-- KLOAD writes no kernel slot but its own (10_state.md R36). -/
theorem exec_kload_kers {s t : State} {k src : Slot} (h : exec (.kload k src) s = .next t) : SameKersExcept [k] s t := by
  rcases exec_cases h with ⟨e, rfl⟩ | ⟨u, -, hu, rfl⟩
  · exact .of_eq [k] rfl
  · cases hu
    exact .setKer s k _

/-- Settles O41: the frame of `exec` for NOP, GET and KLOAD, and KLOAD's own slot. -/
theorem nopGetKloadFrame : Obligations.NopGetKloadFrame := by
  refine ⟨fun s t h => ?_, fun s t src h => ?_, fun s t k src h => ?_⟩
  all_goals have hf := exec_frameOf h
  · exact ⟨hf.interface, hf.result nofun, hf.counts nofun, .of_eq 0 (hf.pm nofun), .of_eq [] (hf.kers nofun),
      hf.draws nofun, hf.bufs, exec_statusCompleted h⟩
  · exact ⟨hf.interface, hf.counts nofun, .of_eq 0 (hf.pm nofun), .of_eq [] (hf.kers nofun), hf.draws nofun, hf.bufs,
      exec_statusCompleted h⟩
  · exact ⟨hf.interface, hf.result nofun, hf.counts nofun, .of_eq 0 (hf.pm nofun), exec_kload_kers h, hf.draws nofun,
      hf.bufs, exec_statusCompleted h⟩

/-- PACK writes no byte from 4*W*H on (44_channel_pack.md R164). -/
theorem exec_pack_samePackedFrom {s t : State} {r g b a : Slot} (h : exec (.pack r g b a) s = .next t) :
    SamePackedFrom (4 * ((s.buf r).width * (s.buf r).height)) s t := by
  rcases exec_cases h with ⟨e, rfl⟩ | ⟨u, -, hu, rfl⟩
  · exact .of_eq _ rfl
  · cases hu
    intro x hx
    simp only [State.complete_pm, State.setPacked_pm]
    rw [interleaved_read, if_neg (by omega)]

/-- Settles O42: the frame of `exec` for PACK, and what interleaving leaves of packed memory. -/
theorem packFrame : Obligations.PackFrame := by
  intro s t r g b a h
  have hf := exec_frameOf h
  refine ⟨hf.interface, hf.result nofun, .of_eq [] (hf.kers nofun), hf.draws nofun, hf.bufs, exec_statusCompleted h,
    exec_pack_samePackedFrom h, fun he => ?_⟩
  obtain ⟨e, rfl⟩ := exec_eq_complete_of_err h he
  exact ⟨.of_eq 0 rfl, rfl, rfl, rfl⟩

/-- UNPACK uses up no draw where every byte it reads is defined (10_state.md R39; log 4). -/
theorem exec_unpack_sameDraws {s t : State} {r g b a : Slot} (h : exec (.unpack r g b a) s = .next t)
    (hdef : ∀ k : Nat, (k : Int) < 4 * (signedOperand s.operand0 * signedOperand s.operand1) →
      (s.pm.read k).isSome = true) : SameDraws s t := by
  rcases exec_cases h with ⟨e, rfl⟩ | ⟨u, -, hu, rfl⟩
  · rfl
  · cases hu with | unpack _ _ _ _ w h' hd =>
    obtain ⟨hw, hh, -, rfl, rfl⟩ := checkedDims_eq_ok_iff.mp hd
    have hread : s.pm.definedOn 0 (4 * ((signedOperand s.operand0).toNat * (signedOperand s.operand1).toNat)) = true := by
      refine (Memory.definedOn_iff _ _ _).mpr fun k hk => ?_
      rw [Nat.zero_add]
      refine hdef k ?_
      zify at hk
      rwa [Int.toNat_of_nonneg hw, Int.toNat_of_nonneg hh] at hk
    simp [SameDraws, State.afterPackedRead, hread]

/-- Settles O43: the frame of `exec` for UNPACK, and its draws. -/
theorem unpackFrame : Obligations.UnpackFrame := by
  intro s t r g b a h
  have hf := exec_frameOf h
  exact ⟨hf.interface, hf.result nofun, hf.counts nofun, .of_eq 0 (hf.pm nofun), .of_eq [] (hf.kers nofun), hf.bufs,
    exec_statusCompleted h, exec_unpack_sameDraws h⟩

/-! ## The parts of the invariant -/

/-- The part of `State.Inv` that speaks of the parameters, the slots and packed memory alone (10_state.md R30 to R38, R47):
neither the host's access nor the life of a command enters it. -/
structure State.StoreInv (s : State) : Prop where
  params : s.params.legal = true
  nbuf : s.bufs.length = s.params.nbuf
  bufs : ∀ b ∈ s.bufs, b.wf s.params = true
  nker : s.kers.length = s.params.nker
  kers : ∀ k ∈ s.kers, k.wf s.params = true
  pm : packedWf s.params s.pm
  pcount : s.pcount.toNat = s.pkW.toNat * s.pkH.toNat

theorem State.Inv.storeInv {s : State} (h : s.Inv) : s.StoreInv :=
  ⟨h.params, h.nbuf, h.bufs, h.nker, h.kers, h.pm, h.pcount⟩

/-- The command in flight, if any, is the one CMD and the ARG registers show (R40, R50). -/
def State.LatchMatches (s : State) : Prop := ∀ c, s.inFlight = some c → c.matchesRegs s = true

theorem State.LatchMatches.of_idle {s : State} (hi : s.inFlight = none) : s.LatchMatches :=
  fun c hc => by rw [hi] at hc; cases hc

/-- The invariant is that of the stores, of the command in flight and of reset. -/
theorem State.StoreInv.inv {s : State} (h : s.StoreInv) (hf : s.LatchMatches)
    (hr : s.resetAsserted = true → s = s.underReset) : s.Inv :=
  ⟨h.params, h.nbuf, h.bufs, h.nker, h.kers, h.pm, h.pcount, hf, hr⟩

theorem State.StoreInv.inv_of_released {s : State} (h : s.StoreInv) (hr : s.resetAsserted = false)
    (hf : s.LatchMatches) : s.Inv :=
  h.inv hf fun h' => by rw [hr] at h'; cases h'

theorem State.StoreInv.inv_of_idle {s : State} (h : s.StoreInv) (hr : s.resetAsserted = false)
    (hi : s.inFlight = none) : s.Inv :=
  h.inv_of_released hr (.of_idle hi)

namespace State.StoreInv

/-- The stores' invariant rests on the stores. -/
theorem congr {s t : State} (h : s.StoreInv) (hp : t.params = s.params) (hb : t.bufs = s.bufs) (hk : t.kers = s.kers)
    (hm : t.pm = s.pm) (hc : SamePackCounts s t) : t.StoreInv := by
  obtain ⟨hn, hw, hh⟩ := hc
  constructor <;> simp only [hp, hb, hk, hm, hn, hw, hh]
  exacts [h.params, h.nbuf, h.bufs, h.nker, h.kers, h.pm, h.pcount]

theorem setBuf {s : State} {b : Buffer} (h : s.StoreInv) (d : Slot) (hb : b.wf s.params = true) : (s.setBuf d b).StoreInv :=
  ⟨h.params, by simp [h.nbuf], State.bufs_wf_setBuf h.bufs hb, h.nker, h.kers, h.pm, h.pcount⟩

theorem setKer {s : State} {v : Kernel} (h : s.StoreInv) (k : Slot) (hv : v.wf s.params = true) : (s.setKer k v).StoreInv :=
  ⟨h.params, h.nbuf, h.bufs, by simp [h.nker], State.kers_wf_setKer h.kers hv, h.pm, h.pcount⟩

theorem setPm {s : State} {m : Memory} (h : s.StoreInv) (hm : packedWf s.params m) : StoreInv { s with pm := m } :=
  ⟨h.params, h.nbuf, h.bufs, h.nker, h.kers, hm, h.pcount⟩

theorem complete {s : State} (h : s.StoreInv) (e : ErrorCode) : (s.complete e).StoreInv :=
  h.congr rfl rfl rfl rfl ⟨rfl, rfl, rfl⟩

theorem setResult {s : State} (h : s.StoreInv) (v : Word) : (s.setResult v).StoreInv :=
  h.congr rfl rfl rfl rfl ⟨rfl, rfl, rfl⟩

theorem afterPackedRead {s : State} (h : s.StoreInv) (a n : Nat) : (s.afterPackedRead a n).StoreInv :=
  h.congr (by simp) (by simp) (by simp) (by simp) ⟨by simp, by simp, by simp⟩

theorem takeMove {s : State} (h : s.StoreInv) (rest : List HostMove) : (s.takeMove rest).StoreInv :=
  h.congr rfl rfl rfl rfl ⟨rfl, rfl, rfl⟩

theorem addReply {s : State} (h : s.StoreInv) (r : Reply) : (s.addReply r).StoreInv :=
  h.congr rfl rfl rfl rfl ⟨rfl, rfl, rfl⟩

theorem buf_wf {s : State} (h : s.StoreInv) (d : Slot) : (s.buf d).wf s.params = true := State.buf_wf h.bufs d

theorem slotWords_le {s : State} (h : s.StoreInv) : s.params.slotWords ≤ 2 ^ 18 := by
  have hp := h.params
  simp only [Params.legal, decide_eq_true_eq] at hp
  omega

/-- What PACK writes: the pixels of a plane that fits a slot, and counts that fit their registers (R38, R47). -/
theorem setPacked {s : State} {m : Memory} {w h : Nat} (hs : s.StoreInv) (hm : packedWf s.params m)
    (hc : w * h ≤ s.params.slotWords) (hw : w < 2 ^ 31) (hh : h < 2 ^ 31) : (s.setPacked m (w * h) w h).StoreInv := by
  refine ⟨hs.params, hs.nbuf, hs.bufs, hs.nker, hs.kers, hm, ?_⟩
  have := hs.slotWords_le
  simp only [State.setPacked_pcount, State.setPacked_pkW, State.setPacked_pkH, BitVec.toNat_ofNat]
  rw [Nat.mod_eq_of_lt (by omega), Nat.mod_eq_of_lt (by omega), Nat.mod_eq_of_lt (by omega)]

end State.StoreInv

theorem lanePlane_wf {p : Params} (s : State) {w h : Nat} (j : Nat) (hd : w * h ≤ p.slotWords ∧ w < 2 ^ 31 ∧ h < 2 ^ 31) :
    (lanePlane s w h j).wf p = true := by
  obtain ⟨hc, hw, hh⟩ := hd
  exact bufferOf_wf _ hc hw hh

/-! ## Commands keep it -/

theorem Effect.storeInv {s u : State} {i : Instr} (h : Effect s i u) (hs : s.StoreInv) : u.StoreInv := by
  cases h with
  | nop => exact hs
  | create d w h hd =>
    obtain ⟨hc, hw, hh⟩ := checkedDims_bounds hd
    exact hs.setBuf d (newBuf_wf hc hw hh)
  | release d => exact hs.setBuf d (newBuf_wf (Nat.zero_le _) (by decide) (by decide))
  | get src => exact hs.setResult _
  | set d => exact hs.setBuf d (Buffer.wf_set _ _ _ (hs.buf_wf d))
  | fill d => exact hs.setBuf d (Buffer.wf_filled _ (hs.buf_wf d))
  | kload k src hc => exact hs.setKer k (kernelOf_wf (hs.buf_wf src) hc)
  | conv d src k => exact hs.setBuf d (convolved_wf _ _ _ _ (hs.buf_wf src))
  | diff d a => exact hs.setBuf d (difference_wf _ _ (hs.buf_wf a))
  | scaledown d src => exact hs.setBuf d (downscaled_wf _ (hs.buf_wf src))
  | pack r =>
    obtain ⟨-, hc, hw, hh⟩ := Buffer.wf_iff.mp (hs.buf_wf r)
    exact hs.setPacked (interleaved_packedWf _ _ _ _ hc hs.pm) hc hw hh
  | unpack r g b a w h hd =>
    have lane (j : Nat) := lanePlane_wf s j (checkedDims_bounds hd)
    have hp := State.afterPackedRead_params s 0 (4 * (w * h))
    refine ((((hs.afterPackedRead _ _).setBuf r ?_).setBuf g ?_).setBuf b ?_).setBuf a ?_
    all_goals simpa only [State.setBuf_params, hp] using lane _

theorem runWord_storeInv {w : Word} {s t : State} (h : runWord w s = .next t) (hs : s.StoreInv) : t.StoreInv := by
  rcases runWord_cases w s with ⟨e, -, hr⟩ | ⟨i, -, hr⟩
  · obtain rfl := Host.Outcome.next.inj (hr.symm.trans h)
    exact hs.complete _
  · rcases exec_cases (hr.symm.trans h) with ⟨e, rfl⟩ | ⟨u, -, hu, rfl⟩
    · exact hs.complete e
    · exact (hu.storeInv hs).complete .ok

/-! ## Host accesses keep it -/

/-- A legal write in the window keeps packed memory canonical and in bounds (10_state.md R38, 20_memory.md R66). -/
theorem packedWf_writeLE {p : Params} {m : Memory} {size : AccessSize} {off : Nat} (v : Word)
    (hl : legalAt size off = true) (hw : inPackedWindow p off = true) (hm : packedWf p m) :
    packedWf p (m.writeLE (off - packedBase) size.bytes v) := by
  obtain ⟨hwf, hb⟩ := hm
  have hend := legal_bytes_within hl hw
  refine ⟨Memory.wf_writeLE _ _ _ hwf, fun c hc => ?_⟩
  rcases Memory.mem_writeLE_addr hc with hc | hc
  · omega
  · exact hb c hc

/-- To show something of what an access leaves, show it of its four forms: a refusal, a read, a register write, and a write
that keeps packed memory canonical (20_memory.md R58 to R73). -/
theorem State.access_of_forms (s : State) (a : Access) {P : State → Prop} (hrefuse : P s.refuseAccess)
    (hread : ∀ n r, P (State.addReply { s with draws := n } r))
    (hreg : ∀ off v, P ((s.writeReg off v).addReply .written))
    (hpm : ∀ m, (packedWf s.params s.pm → packedWf s.params m) → P (State.addReply { s with pm := m } .written)) :
    P (s.access a) := by
  rcases s.access_cases a with ⟨-, h⟩ | ⟨-, -, h⟩ | ⟨v, hl, -, h⟩ <;> rw [h]
  · exact hrefuse
  · rcases s.afterRead_cases a.size (a.offset s.params) with h' | h' <;> rw [h'] <;> exact hread _ _
  · rcases s.afterWrite_cases a.size (a.offset s.params) v with ⟨-, h'⟩ | ⟨hw, h'⟩ | h' <;> rw [h']
    · exact hreg _ v
    · exact hpm _ (packedWf_writeLE v hl hw)
    · exact hpm s.pm id

theorem State.writeReg_storeInv {s : State} (off : Nat) (v : Word) (hs : s.StoreInv) : (s.writeReg off v).StoreInv := by
  rcases s.writeReg_cases off v with h | h | h | h | h | h | ⟨d, h⟩ <;> rw [h]
  iterate 6 · exact hs.congr rfl rfl rfl rfl ⟨rfl, rfl, rfl⟩
  · exact hs.setBuf d (hs.buf_wf d)

theorem State.access_storeInv {s : State} (a : Access) (hs : s.StoreInv) : (s.access a).StoreInv :=
  s.access_of_forms a (P := State.StoreInv)
    (hs.congr rfl rfl rfl rfl ⟨rfl, rfl, rfl⟩)
    (fun _ _ => hs.congr rfl rfl rfl rfl ⟨rfl, rfl, rfl⟩)
    (fun off v => (State.writeReg_storeInv off v hs).addReply _)
    (fun _ hm => (hs.setPm (hm hs.pm)).addReply _)

/-! ## Reset meets it -/

theorem State.resetWith_storeInv {p : Params} (hp : p.legal = true) : (State.resetWith p).StoreInv where
  params := hp
  nbuf := List.length_replicate
  bufs := fun b hb => by rw [List.eq_of_mem_replicate hb]; exact Buffer.wf_atReset p
  nker := List.length_replicate
  kers := fun k hk => by rw [List.eq_of_mem_replicate hk]; exact Kernel.wf_atReset p
  pm := ⟨List.Pairwise.nil, nofun⟩
  pcount := rfl

/-- The state under reset meets the invariant whatever state it was asserted in (70_reset_and_hazards.md R200, R201). -/
theorem State.underReset_inv {s : State} (hp : s.params.legal = true) : s.underReset.Inv :=
  have hstore : s.underReset.StoreInv := (State.resetWith_storeInv hp).congr rfl rfl rfl rfl ⟨rfl, rfl, rfl⟩
  hstore.inv (.of_idle rfl) fun _ => rfl

/-- Settles O2: the stores' invariant of the table of R52, with no command in flight and reset released. -/
theorem resetMeetsInvariant : Obligations.ResetMeetsInvariant :=
  have h (p : Params) (hp : p.legal = true) : (State.resetWith p).Inv := (State.resetWith_storeInv hp).inv_of_idle rfl rfl
  ⟨h, h Params.default (by decide)⟩

/-! ## The command in flight and the registers (10_state.md R40, R50) -/

theorem InFlight.matchesRegs_iff {s : State} {c : InFlight} :
    c.matchesRegs s = true ↔ c.word = s.cmd ∧ c.arg0 = s.arg0 ∧ c.arg1 = s.arg1 ∧ c.arg2 = s.arg2 := by
  simp [InFlight.matchesRegs]

/-- The slack a host move uses up is no register (log 1). -/
theorem State.LatchMatches.takeMove {s : State} (h : s.LatchMatches) (rest : List HostMove) :
    (s.takeMove rest).LatchMatches := by
  intro c hc
  obtain ⟨c', hc', rfl⟩ := Option.map_eq_some_iff.mp hc
  exact InFlight.matchesRegs_iff.mpr (InFlight.matchesRegs_iff.mp (h c' hc'))

/-- With no command in flight, the only register write that starts one is CMD's, which latches the registers (R83). -/
theorem State.writeReg_latchMatches {s : State} (off : Nat) (v : Word) (hi : s.inFlight = none) :
    (s.writeReg off v).LatchMatches := by
  rcases s.writeReg_cases off v with h | h | h | h | h | h | ⟨d, h⟩ <;> rw [h]
  case inr.inl =>
    intro c hc
    obtain rfl := Option.some.inj hc
    exact InFlight.matchesRegs_iff.mpr ⟨rfl, rfl, rfl, rfl⟩
  all_goals exact .of_idle hi

theorem State.access_latchMatches {s : State} (a : Access) (hi : s.inFlight = none) : (s.access a).LatchMatches :=
  s.access_of_forms a (P := State.LatchMatches) (.of_idle hi) (fun _ _ => .of_idle hi)
    (fun off v => State.writeReg_latchMatches off v hi) (fun _ _ => .of_idle hi)

theorem State.writeReg_resetAsserted (s : State) (off : Nat) (v : Word) :
    (s.writeReg off v).resetAsserted = s.resetAsserted := by
  rcases s.writeReg_cases off v with h | h | h | h | h | h | ⟨d, h⟩ <;> rw [h] <;> rfl

/-- No access reaches the reset input. -/
theorem State.access_resetAsserted (s : State) (a : Access) : (s.access a).resetAsserted = s.resetAsserted :=
  s.access_of_forms a (P := fun t => t.resetAsserted = s.resetAsserted) rfl (fun _ _ => rfl)
    s.writeReg_resetAsserted (fun _ _ => rfl)

/-! ## A STATUS read -/

theorem Access.isStatusRead_iff {p : Params} {a : Access} :
    a.isStatusRead p = true ↔ a.inAperture p = true ∧ a.offset p = 0x010 ∧ a.size = .word ∧ a.kind = .read := by
  simp [Access.isStatusRead]

/-- A STATUS read gives STATUS and changes nothing (10_state.md R42, 20_memory.md R73). -/
theorem State.access_statusRead {s : State} {a : Access} (h : a.isStatusRead s.params = true) :
    s.access a = s.addReply (.data s.status) := by
  obtain ⟨-, ho, hs, hk⟩ := Access.isStatusRead_iff.mp h
  have hw : inPackedWindow s.params 0x010 = false := by simp [inPackedWindow, packedBase]
  have hr : s.afterRead .word 0x010 = s := by rw [State.afterRead, hw]; rfl
  have hd : s.readData .word 0x010 = s.status := rfl
  rw [State.access, ho, hs, hk, if_pos (by decide)]
  simp only [hr, hd]

/-- While a command is in flight the only access that lands is a STATUS read (20_memory.md R74). -/
theorem isStatusRead_of_hostLands {s : State} {c : InFlight} {a : Access} {rest : List HostMove}
    (h : s.hostLands c = true) (hq : s.hostQueue = .access a :: rest) : a.isStatusRead s.params = true := by
  rw [State.hostLands, hq] at h
  exact (Bool.and_eq_true_iff.mp h).2

/-! ## Steps keep the invariant -/

/-- A command is never in flight under reset (70_reset_and_hazards.md R201). -/
theorem State.Inv.released {s : State} {c : InFlight} (h : s.Inv) (hc : s.inFlight = some c) :
    s.resetAsserted = false := by
  by_contra hr
  have hs := h.reset (by simpa using hr)
  rw [hs] at hc
  cases hc

theorem runWord_sameInterface {w : Word} {s t : State} (h : runWord w s = .next t) : SameInterface s t := by
  rcases runWord_cases w s with ⟨e, -, hr⟩ | ⟨i, -, hr⟩
  · obtain rfl := Host.Outcome.next.inj (hr.symm.trans h)
    exact .refl s
  · exact (exec_frameOf (hr.symm.trans h)).interface

theorem runWord_keeps_inv {c : InFlight} {s t : State} (hs : s.Inv) (hc : s.inFlight = some c)
    (h : runWord c.word s = .next t) : t.Inv := by
  obtain ⟨-, -, -, -, -, hr, -⟩ := runWord_sameInterface h
  obtain ⟨u, hu, hidle, -⟩ := runWord_next c.word s
  obtain rfl := Host.Outcome.next.inj (hu.symm.trans h)
  exact (runWord_storeInv h hs.storeInv).inv_of_idle (hr.trans (hs.released hc)) hidle

/-- The host's access, with no command in flight or as the STATUS read that lands before one completes. -/
theorem access_keeps_inv {s : State} {a : Access} {rest : List HostMove} (hs : s.Inv) (hr : s.resetAsserted = false)
    (hready : s.inFlight = none ∨ ∃ c, s.inFlight = some c ∧ s.hostLands c = true)
    (hq : s.hostQueue = .access a :: rest) : ((s.takeMove rest).access a).Inv := by
  have hstore := State.access_storeInv a (hs.storeInv.takeMove rest)
  refine hstore.inv_of_released ((State.access_resetAsserted _ a).trans hr) ?_
  rcases hready with hi | ⟨c, -, hl⟩
  · exact State.access_latchMatches a (by simp [hi])
  · have hread := isStatusRead_of_hostLands hl hq
    rw [State.access_statusRead (s := s.takeMove rest) hread]
    exact State.LatchMatches.takeMove hs.inFlight rest

/-- Settles O57: the command in flight keeps the stores' invariant and ends; a host move keeps it too, and the registers
change only where no command is in flight. -/
theorem stepKeepsInvariant : Obligations.StepKeepsInvariant := by
  intro s s' hs h
  rcases step_cases s with ⟨c, hc, -, hst⟩ | ⟨hready, hst⟩ <;> rw [hst] at h
  · exact runWord_keeps_inv hs hc h
  · rcases hostStep_cases h with ⟨-, rfl⟩ | ⟨m, rest, hq, ⟨-, rfl⟩ | ⟨-, rfl⟩ | ⟨a, rfl, hr, -, rfl⟩⟩
    · exact hs
    · exact State.underReset_inv hs.params
    · have hstore : State.StoreInv { s.takeMove rest with resetAsserted := false } :=
        hs.storeInv.congr rfl rfl rfl rfl ⟨rfl, rfl, rfl⟩
      exact hstore.inv_of_released rfl (State.LatchMatches.takeMove hs.inFlight rest)
    · exact access_keeps_inv hs hr hready hq

/-! ## STATUS -/

/-- STATUS from its fields: the error code in 7:4, ERR_STICKY in bit 1, BUSY in bit 0 (R42). -/
def statusWord (code : BitVec 4) (sticky busy : Bool) : Word :=
  (0#24 ++ code ++ 0#2 ++ BitVec.ofBool sticky ++ BitVec.ofBool busy : BitVec (24 + 4 + 2 + 1 + 1))

theorem State.status_eq (s : State) : s.status = statusWord s.err.code s.errSticky s.busy := rfl

theorem statusWord_fields : ∀ (code : BitVec 4) (sticky busy : Bool),
    (statusWord code sticky busy).getLsbD 0 = busy ∧ (statusWord code sticky busy).getLsbD 1 = sticky ∧
    (statusWord code sticky busy).extractLsb' 2 2 = 0 ∧ (statusWord code sticky busy).extractLsb' 8 24 = 0 ∧
    (statusWord code sticky busy).extractLsb' 4 4 = code := by decide

theorem State.status_eq_zero {s : State} (he : s.err = .ok) (hs : s.errSticky = false) (hi : s.inFlight = none) :
    s.status = 0 := by
  rw [State.status_eq, State.busy, he, hs, hi]
  decide

theorem State.writeReg_status (s : State) (v : Word) : s.writeReg 0x010 v = s.writeStatus v := rfl

/-- Settles O46: STATUS is assembled from its fields, and a write of it clears ERR_STICKY by bit 1. -/
theorem statusLayout : Obligations.StatusLayout := by
  intro s
  obtain ⟨hbusy, hsticky, hlow, hhigh, hcode⟩ := statusWord_fields s.err.code s.errSticky s.busy
  rw [State.status_eq]
  refine ⟨hbusy, hsticky, hlow, hhigh, ?_, fun v => ?_⟩
  · rw [hcode]
    cases s.err <;> rfl
  · rw [State.writeReg_status, State.writeStatus]
    cases v.getLsbD 1 <;> simp

/-! ## Reset and its release -/

theorem State.buf_resetWith (p : Params) (d : Slot) : (State.resetWith p).buf d = Buffer.atReset := by
  simp only [State.buf, State.resetWith, List.getD_eq_getElem?_getD, List.getElem?_replicate]
  split <;> rfl

theorem State.ker_resetWith (p : Params) (k : Slot) : (State.resetWith p).ker k = Kernel.atReset := by
  simp only [State.ker, State.resetWith, List.getD_eq_getElem?_getD, List.getElem?_replicate]
  split <;> rfl

/-- Settles O1: every field of the state after reset, and what every slot of it reads as. -/
theorem resetLeavesTheTable : Obligations.ResetLeavesTheTable := by
  refine ⟨fun p => ?_, rfl, rfl, rfl, rfl, rfl⟩
  exact ⟨rfl, List.length_replicate, List.length_replicate, State.buf_resetWith p, State.ker_resetWith p, Memory.read_nil,
    rfl, rfl, rfl, rfl, State.status_eq_zero rfl rfl rfl, rfl, rfl, rfl, rfl, rfl⟩

/-- Under reset every item of the table of R52 has its reset value (70_reset_and_hazards.md R200). -/
theorem State.underReset_atResetTable (s : State) : s.underReset.atResetTable :=
  ⟨rfl, rfl, Memory.read_nil, rfl, rfl, rfl, rfl, State.status_eq_zero rfl rfl rfl, rfl, rfl, rfl, rfl, rfl⟩

/-- A move that lands before the command in flight completes, or with none in flight, is made (log 1). -/
theorem step_of_lands {s : State} {m : HostMove} {rest : List HostMove} (hq : s.hostQueue = m :: rest)
    (hm : m.lands s.params = true) (hslack : ∀ c, s.inFlight = some c → 0 < c.slack) :
    step s = hostMove m (s.takeMove rest) := by
  rw [← hostStep_cons hq]
  cases hi : s.inFlight with
  | none => exact step_of_idle hi
  | some c =>
    have hl : s.hostLands c = true := by simp [State.hostLands, hq, hm, hslack c hi]
    simp [step, hi, hl]

/-- A release of reset, made with no command in flight (70_reset_and_hazards.md R200). -/
theorem step_releaseReset {s : State} {rest : List HostMove} (hq : s.hostQueue = .releaseReset :: rest)
    (hi : s.inFlight = none) : step s = .next { s with hostQueue := rest, resetAsserted := false } := by
  rw [step_of_idle hi, hostStep_cons hq, State.takeMove_of_idle rest hi, hostMove]

/-- Settles O3: the assert lands and leaves the state under reset; the release changes its level alone, so the table still
holds after it. -/
theorem resetAbandonsCommand : Obligations.ResetAbandonsCommand := by
  refine ⟨fun s rest hq hslack => ?_, fun s rest hq hi => step_releaseReset hq hi, fun s rest hs hr hq => ?_⟩
  · exact ⟨_, step_of_lands hq rfl hslack, rfl, rfl, State.underReset_atResetTable _⟩
  · have htable : s.atResetTable := by rw [hs.reset hr]; exact State.underReset_atResetTable s
    have hi : s.inFlight = none := by rw [hs.reset hr]; rfl
    exact ⟨_, step_releaseReset hq hi, rfl, rfl, htable⟩

/-! ## Accesses while a command is in flight (20_memory.md R74) -/

/-- The host's 32-bit read at offset 0x010 is the STATUS read. -/
theorem isStatusRead_rd (p : Params) :
    ({ addr := p.apertureBase + 0x010, size := .word, kind := .read } : Access).isStatusRead p = true := by
  refine Access.isStatusRead_iff.mpr ⟨Access.inAperture_iff.mpr ⟨?_, ?_⟩, Access.offset_of_addr rfl, rfl, rfl⟩
  · exact Nat.le_add_right _ _
  · show p.apertureBase + 0x010 < p.apertureBase + 0x200000
    omega

/-- A STATUS read that lands is performed and gives STATUS as it was (R42, R44, R74). -/
theorem step_statusRead {s : State} {rest : List HostMove} (hq : s.hostQueue = rd s.params 0x010 :: rest)
    (hr : s.resetAsserted = false) (hslack : ∀ c, s.inFlight = some c → 0 < c.slack) :
    step s = .next ((s.takeMove rest).addReply (.data s.status)) := by
  have hread := isStatusRead_rd s.params
  obtain ⟨hin, -⟩ := Access.isStatusRead_iff.mp hread
  have hstatus : (s.takeMove rest).status = s.status := by simp [State.status, State.busy]
  rw [step_of_lands hq hread hslack, rd, hostMove, if_neg (by simp [hr]), State.takeMove_params, if_pos hin,
    State.access_statusRead (s := s.takeMove rest) hread, hstatus]

/-- Settles O52: a move that may not land leaves the step to the command, and a STATUS read that lands is made. -/
theorem accessesAreHeldWhileBusy : Obligations.AccessesAreHeldWhileBusy := by
  refine ⟨fun s c m rest hc hq hm => ?_, fun s c rest hc hr hslack hq => ?_⟩
  · have hl : s.hostLands c = false := by simp [State.hostLands, hq, hm]
    obtain ⟨t, ht, hidle, hqueue, hrep⟩ := runWord_next c.word s
    exact ⟨t, by simpa [step, hc, hl] using ht, hidle, hqueue.trans hq, hrep⟩
  · refine ⟨_, _, step_statusRead hq hr fun c' hc' => ?_, rfl, rfl, ?_, ?_, rfl, rfl, rfl, rfl, rfl, rfl⟩
    · obtain rfl := Option.some.inj (hc.symm.trans hc')
      exact hslack
    · rw [(statusLayout s).1, hc]; rfl
    · simp [hc]

/-! ## UNPACK's planes (10_state.md R39; 44_channel_pack.md R166 to R169) -/

/-- Of four writes in the order red, green, blue, alpha the last that names a slot is the one it holds. -/
theorem State.buf_setBuf_planes {s : State} {r g b a : Slot} (plane : Nat → Buffer) (hr : r.val < s.bufs.length)
    (hg : g.val < s.bufs.length) (hb : b.val < s.bufs.length) (ha : a.val < s.bufs.length) {d : Slot} {j : Nat}
    (hd : (d = r ∧ d ∉ [g, b, a] ∧ j = 0) ∨ (d = g ∧ d ∉ [b, a] ∧ j = 1) ∨ (d = b ∧ d ≠ a ∧ j = 2) ∨ (d = a ∧ j = 3)) :
    ((((s.setBuf r (plane 0)).setBuf g (plane 1)).setBuf b (plane 2)).setBuf a (plane 3)).buf d = plane j := by
  rcases hd with ⟨rfl, hn, rfl⟩ | ⟨rfl, hn, rfl⟩ | ⟨rfl, hda, rfl⟩ | ⟨rfl, rfl⟩
  · obtain ⟨hdg, hdb, hda⟩ : d ≠ g ∧ d ≠ b ∧ d ≠ a := by simpa using hn
    rw [State.buf_setBuf_ne _ _ hda, State.buf_setBuf_ne _ _ hdb, State.buf_setBuf_ne _ _ hdg,
      State.buf_setBuf_self _ hr]
  · obtain ⟨hdb, hda⟩ : d ≠ b ∧ d ≠ a := by simpa using hn
    rw [State.buf_setBuf_ne _ _ hda, State.buf_setBuf_ne _ _ hdb, State.buf_setBuf_self _ (by simpa using hg)]
  · rw [State.buf_setBuf_ne _ _ hda, State.buf_setBuf_self _ (by simpa using hb)]
  · rw [State.buf_setBuf_self _ (by simpa using ha)]

/-- A sample of a lane plane is a byte, zero-extended. -/
theorem lanePlane_at_toNat (s : State) {w h j i : Nat} (hi : i < w * h) :
    ((lanePlane s w h j).at i).toNat = (s.packedByte (4 * i + j)).toNat := by
  rw [lanePlane_at s hi, BitVec.toNat_setWidth_of_le (by decide)]

theorem unpack_wellFormed_iff {p : Params} {r g b a : Slot} : (Instr.unpack r g b a).wellFormed p = true ↔
    r.val < p.nbuf ∧ g.val < p.nbuf ∧ b.val < p.nbuf ∧ a.val < p.nbuf := by
  simp [Instr.wellFormed, Params.bufferSlotOk_iff, and_assoc]

/-- Settles O38: admitted dimensions are UNPACK's `Effect`, whose slots hold lane planes. -/
theorem unpackSplitsChannels : Obligations.UnpackSplitsChannels := by
  rintro s r g b a ⟨hbufs, -⟩ hwf hw hh hc
  have heff := Effect.unpack r g b a _ _ (checkedDims_eq_ok_iff.mpr ⟨hw, hh, hc, rfl, rfl⟩)
  refine ⟨_, exec_of_effect hwf heff, rfl, heff.statusCompleted, fun d j hd => ?_⟩
  rw [State.buf_complete]
  obtain ⟨hr, hg, hb, ha⟩ := unpack_wellFormed_iff.mp hwf
  rw [← hbufs] at hr hg hb ha
  rw [State.buf_setBuf_planes (lanePlane s _ _) (by simpa using hr) (by simpa using hg) (by simpa using hb)
    (by simpa using ha) hd]
  refine ⟨Int.toNat_of_nonneg hw, Int.toNat_of_nonneg hh, rfl, bufferOf_length .., fun i hi => ?_⟩
  rw [lanePlane_at_toNat s (by exact hi)]
  exact ⟨Nat.le_of_lt_succ (BitVec.isLt _), fun v hv => by rw [State.packedByte_of_read hv]⟩

/-! ## Who writes what (10_state.md R32, R36, R46, R47) -/

/-- An illegal word in flight leaves what NOP leaves. -/
theorem runWord_frameOf {w : Word} {s t : State} (h : runWord w s = .next t) :
    ∃ i, FrameOf i s t ∧ (decode s.params w = .ok i ∨ i = .nop) := by
  rcases runWord_cases w s with ⟨e, -, hr⟩ | ⟨i, hi, hr⟩
  · obtain rfl := Host.Outcome.next.inj (hr.symm.trans h)
    exact ⟨.nop, (FrameOf.refl _ s).complete _, .inr rfl⟩
  · exact ⟨i, exec_frameOf (hr.symm.trans h), .inl hi⟩

theorem FrameOf.kload_of_kers_ne {i : Instr} {s t : State} (h : FrameOf i s t) (hne : t.kers ≠ s.kers) :
    ∃ k src, i = .kload k src := by
  by_contra hn
  exact hne (h.kers fun k src hi => hn ⟨k, src, hi⟩)

theorem FrameOf.get_of_result_ne {i : Instr} {s t : State} (h : FrameOf i s t) (hne : t.result ≠ s.result) :
    ∃ src, i = .get src := by
  by_contra hn
  exact hne (h.result fun src hi => hn ⟨src, hi⟩)

theorem FrameOf.pack_of_counts_ne {i : Instr} {s t : State} (h : FrameOf i s t) (hne : ¬ SamePackCounts s t) :
    ∃ r g b a, i = .pack r g b a := by
  by_contra hn
  exact hne (h.counts fun r g b a hi => hn ⟨r, g, b, a, hi⟩)

/-- Width, height and samples: what a host access never writes of a buffer (R32). -/
def Buffer.image (b : Buffer) : Nat × Nat × List Sample := (b.width, b.height, b.samples)

/-- What no host access writes: kernels, RESULT, the counts of PACK, and of the buffers all but GAIN. -/
structure HostFrame (s t : State) : Prop where
  images : t.bufs.map Buffer.image = s.bufs.map Buffer.image
  kers : t.kers = s.kers
  result : SameResult s t
  counts : SamePackCounts s t

namespace HostFrame

theorem of_bufs {s t : State} (hb : t.bufs = s.bufs) (hk : t.kers = s.kers) (hr : SameResult s t)
    (hc : SamePackCounts s t) : HostFrame s t := ⟨by rw [hb], hk, hr, hc⟩

theorem trans {s t u : State} (h₁ : HostFrame s t) (h₂ : HostFrame t u) : HostFrame s u := by
  obtain ⟨hn, hw, hh⟩ := h₁.counts
  obtain ⟨hn', hw', hh'⟩ := h₂.counts
  exact ⟨h₂.images.trans h₁.images, h₂.kers.trans h₁.kers, Eq.trans h₂.result h₁.result, hn'.trans hn, hw'.trans hw,
    hh'.trans hh⟩

end HostFrame

/-- A write of BUF_GAIN leaves the slot's image, and of a slot that is not there nothing (20_memory.md R61). -/
theorem State.writeBufGain_images (s : State) (d : Slot) (v : Word) :
    (s.writeBufGain d v).bufs.map Buffer.image = s.bufs.map Buffer.image := by
  rw [State.writeBufGain, State.setBuf_bufs, List.map_set]
  by_cases hd : d.val < s.bufs.length
  · have himage : ({ s.buf d with gain := v } : Buffer).image = (s.bufs.map Buffer.image)[d.val]'(by simpa using hd) := by
      simp [State.buf, Buffer.image, hd]
    rw [himage, List.set_getElem_self]
  · exact List.set_eq_of_length_le (by simpa using hd)

theorem State.writeReg_hostFrame (s : State) (off : Nat) (v : Word) : HostFrame s (s.writeReg off v) := by
  rcases s.writeReg_cases off v with h | h | h | h | h | h | ⟨d, h⟩ <;> rw [h]
  iterate 6 · exact .of_bufs rfl rfl rfl ⟨rfl, rfl, rfl⟩
  · exact ⟨s.writeBufGain_images d v, rfl, rfl, rfl, rfl, rfl⟩

theorem State.access_hostFrame (s : State) (a : Access) : HostFrame s (s.access a) := by
  refine s.access_of_forms a (P := HostFrame s) ?_ (fun n r => ?_) (fun off v => ?_) (fun m _ => ?_)
  · exact .of_bufs rfl rfl rfl ⟨rfl, rfl, rfl⟩
  · exact .of_bufs rfl rfl rfl ⟨rfl, rfl, rfl⟩
  · exact (s.writeReg_hostFrame off v).trans (.of_bufs rfl rfl rfl ⟨rfl, rfl, rfl⟩)
  · exact .of_bufs rfl rfl rfl ⟨rfl, rfl, rfl⟩

/-- A host step that does not assert reset leaves what no access writes. -/
theorem hostStep_hostFrame {s t : State} (h : hostStep s = .next t) :
    (∃ rest, s.hostQueue = .assertReset :: rest) ∨ HostFrame s t := by
  have take (rest : List HostMove) : HostFrame s (s.takeMove rest) := .of_bufs rfl rfl rfl ⟨rfl, rfl, rfl⟩
  rcases hostStep_cases h with ⟨-, rfl⟩ | ⟨m, rest, hq, ⟨rfl, -⟩ | ⟨-, rfl⟩ | ⟨a, -, -, -, rfl⟩⟩
  · exact .inr (.of_bufs rfl rfl rfl ⟨rfl, rfl, rfl⟩)
  · exact .inl ⟨rest, hq⟩
  · exact .inr ((take rest).trans (.of_bufs rfl rfl rfl ⟨rfl, rfl, rfl⟩))
  · exact .inr ((take rest).trans (State.access_hostFrame _ a))

/-- Settles O59: the frame of the command in flight names the one that changed each, and a host move changes none. -/
theorem onlyOneCommandWritesEach : Obligations.OnlyOneCommandWritesEach := by
  intro s s' h
  rcases step_cases s with ⟨c, hc, -, hst⟩ | ⟨hready, hst⟩ <;> rw [hst] at h
  · obtain ⟨i, hf, hi⟩ := runWord_frameOf h
    refine .inr ⟨fun hne => ?_, fun hne => ?_, fun hne => ?_⟩
    · obtain ⟨k, src, rfl⟩ := hf.kload_of_kers_ne hne
      exact ⟨c, k, src, hc, hi.resolve_right nofun⟩
    · obtain ⟨src, rfl⟩ := hf.get_of_result_ne hne
      exact ⟨c, src, hc, hi.resolve_right nofun⟩
    · obtain ⟨r, g, b, a, rfl⟩ := hf.pack_of_counts_ne (by unfold SamePackCounts; tauto)
      exact ⟨c, r, g, b, a, hc, hi.resolve_right nofun⟩
  · rcases hostStep_hostFrame h with hreset | hf
    · exact .inl ⟨hreset, hready⟩
    · obtain ⟨hn, hw, hh⟩ := hf.counts
      exact .inr ⟨fun hne => absurd hf.kers hne, fun hne => absurd hf.result hne, fun hne => by tauto⟩

/-- Settles O60: with no command in flight the step is the host's, and leaves the images of the buffers. -/
theorem hostCannotWriteSamples : Obligations.HostCannotWriteSamples := by
  intro s s' hi h hq
  rw [step_of_idle hi] at h
  rcases hostStep_hostFrame h with ⟨rest, hreset⟩ | hf
  · exact absurd hreset (hq rest)
  · exact ⟨hf.images, hf.kers⟩

/-! ## What no command reads (10_state.md R33, R49) -/

/-- The checks of a command read its operands and the shapes of its sources alone. -/
theorem Rejects.congr {s s' : State} {i : Instr} {e : ErrorCode} (h : Rejects s i e) (hp : s'.params = s.params)
    (h0 : s'.operand0 = s.operand0) (h1 : s'.operand1 = s.operand1) (hw : ∀ d, (s'.buf d).width = (s.buf d).width)
    (hh : ∀ d, (s'.buf d).height = (s.buf d).height) : Rejects s' i e := by
  cases h with
  | createDims d e hd => exact .createDims d e (by rw [hp, h0, h1, hd])
  | unpackDims r g b a e hd => exact .unpackDims r g b a e (by rw [hp, h0, h1, hd])
  | kload k src hc => exact .kload k src (by rw [hp, hw, hh]; exact hc)
  | diff d a b corrected hs => exact .diff d a b corrected (by simpa only [hw, hh] using hs)
  | scaledown d src hn => exact .scaledown d src (by rw [h0]; exact hn)
  | pack r g b a hs => exact .pack r g b a (by simpa only [Buffer.sameShape, hw, hh] using hs)

/-- Two runs of a command, from states with the same parameters in which its checks and its effect agree, end alike: by
the same error, or by effects that are related. -/
theorem exec_related {R : State → State → Prop} {i : Instr} {s s' t : State} (hp : s'.params = s.params)
    (hrej : ∀ e, Rejects s i e → Rejects s' i e) (heff : ∀ u, Effect s i u → ∃ u', Effect s' i u' ∧ R u u')
    (h : exec i s = .next t) :
    (∃ e, t = s.complete e ∧ exec i s' = .next (s'.complete e)) ∨
      ∃ u u', R u u' ∧ t = u.complete .ok ∧ exec i s' = .next (u'.complete .ok) := by
  cases hw : i.wellFormed s.params with
  | false =>
    rw [exec_illegal hw] at h
    exact .inl ⟨_, (Host.Outcome.next.inj h).symm, exec_illegal (hp ▸ hw)⟩
  | true =>
    rcases effect_or_rejects i s with ⟨u, hu⟩ | ⟨e, he⟩
    · obtain ⟨u', hu', hR⟩ := heff u hu
      rw [exec_of_effect hw hu] at h
      exact .inr ⟨u, u', hR, (Host.Outcome.next.inj h).symm, exec_of_effect (hp ▸ hw) hu'⟩
    · rw [exec_of_rejects hw he] at h
      exact .inl ⟨e, (Host.Outcome.next.inj h).symm, exec_of_rejects (hp ▸ hw) (hrej e he)⟩

/-! ### GAIN -/

/-- The two states differ in the GAINs of buffers at most. -/
def SameButGains (s t : State) : Prop := t.withoutGains = s.withoutGains

/-- Two buffers of one image differ in GAIN at most. -/
theorem Buffer.eq_withGain_of_image {b b' : Buffer} (h : b'.image = b.image) : b' = { b with gain := b'.gain } := by
  obtain ⟨w, x, g, l⟩ := b
  obtain ⟨w', x', g', l'⟩ := b'
  simpa [Buffer.image] using h

theorem Buffer.image_set_withGain (b : Buffer) (g : Word) (x y : Int) (v : Sample) :
    (({ b with gain := g } : Buffer).set x y v).image = (b.set x y v).image := by
  unfold Buffer.set
  split <;> rfl

theorem State.image_withoutGains (s : State) (d : Slot) : (s.withoutGains.buf d).image = (s.buf d).image := by
  simp only [State.buf, State.withoutGains, List.getD_eq_getElem?_getD, List.getElem?_map]
  cases s.bufs[d.val]? <;> rfl

theorem State.withoutGains_setBuf (s : State) (d : Slot) (b : Buffer) :
    (s.setBuf d b).withoutGains = s.withoutGains.setBuf d { b with gain := 0 } := by
  simp [State.withoutGains, State.setBuf, List.map_set]

theorem State.withoutGains_afterPackedRead (s : State) (a n : Nat) :
    (s.afterPackedRead a n).withoutGains = s.withoutGains.afterPackedRead a n := by
  unfold State.afterPackedRead
  rw [apply_ite State.withoutGains]
  rfl

namespace SameButGains

variable {s t : State}

theorem params (h : SameButGains s t) : t.params = s.params := (congrArg State.params h :)

theorem pm (h : SameButGains s t) : t.pm = s.pm := (congrArg State.pm h :)

theorem operand0 (h : SameButGains s t) : t.operand0 = s.operand0 := (congrArg State.operand0 h :)

theorem operand1 (h : SameButGains s t) : t.operand1 = s.operand1 := (congrArg State.operand1 h :)

theorem operand2 (h : SameButGains s t) : t.operand2 = s.operand2 := (congrArg State.operand2 h :)

theorem ker (h : SameButGains s t) (k : Slot) : t.ker k = s.ker k := (congrArg (State.ker · k) h :)

theorem lanePlane (h : SameButGains s t) (w x j : Nat) : lanePlane t w x j = lanePlane s w x j :=
  (congrArg (Machine.lanePlane · w x j) h :)

theorem image (h : SameButGains s t) (d : Slot) : (t.buf d).image = (s.buf d).image := by
  rw [← t.image_withoutGains, ← s.image_withoutGains, h]

/-- A slot of the one is the slot of the other but for its GAIN. -/
theorem buf (h : SameButGains s t) (d : Slot) : ∃ g, t.buf d = { s.buf d with gain := g } :=
  ⟨_, Buffer.eq_withGain_of_image (h.image d)⟩

theorem width (h : SameButGains s t) (d : Slot) : (t.buf d).width = (s.buf d).width := congrArg Prod.fst (h.image d)

theorem height (h : SameButGains s t) (d : Slot) : (t.buf d).height = (s.buf d).height :=
  congrArg (·.2.1) (h.image d)

theorem dims (h : SameButGains s t) : checkedDims t.params (signedOperand t.operand0) (signedOperand t.operand1) =
    checkedDims s.params (signedOperand s.operand0) (signedOperand s.operand1) := by
  rw [h.params, h.operand0, h.operand1]

theorem sameShape (h : SameButGains s t) (d e : Slot) :
    (t.buf d).sameShape (t.buf e) = (s.buf d).sameShape (s.buf e) := by
  simp only [Buffer.sameShape, h.width, h.height]

theorem setBuf (h : SameButGains s t) (d : Slot) {b b' : Buffer} (hb : b'.image = b.image) :
    SameButGains (s.setBuf d b) (t.setBuf d b') := by
  unfold SameButGains
  rw [State.withoutGains_setBuf, State.withoutGains_setBuf, h, Buffer.eq_withGain_of_image hb]

theorem setKer (h : SameButGains s t) (k : Slot) (v : Kernel) : SameButGains (s.setKer k v) (t.setKer k v) :=
  congrArg (State.setKer · k v) h

theorem setResult (h : SameButGains s t) (v : Word) : SameButGains (s.setResult v) (t.setResult v) :=
  congrArg (State.setResult · v) h

theorem setPacked (h : SameButGains s t) (m : Memory) (n w x : Nat) :
    SameButGains (s.setPacked m n w x) (t.setPacked m n w x) := congrArg (State.setPacked · m n w x) h

theorem complete (h : SameButGains s t) (e : ErrorCode) : SameButGains (s.complete e) (t.complete e) :=
  congrArg (State.complete · e) h

theorem afterPackedRead (h : SameButGains s t) (a n : Nat) :
    SameButGains (s.afterPackedRead a n) (t.afterPackedRead a n) := by
  unfold SameButGains
  rw [State.withoutGains_afterPackedRead, State.withoutGains_afterPackedRead, h]

end SameButGains

/-- The effect of a command reads of its sources the image alone (10_state.md R33). -/
theorem Effect.sameButGains {s t u : State} {i : Instr} (h : Effect s i u) (hs : SameButGains s t) :
    ∃ v, Effect t i v ∧ SameButGains u v := by
  cases h with
  | nop => exact ⟨t, .nop, hs⟩
  | create d w x hd => exact ⟨_, .create d w x (hs.dims.trans hd), hs.setBuf d rfl⟩
  | release d => exact ⟨_, .release d, hs.setBuf d rfl⟩
  | get src =>
    obtain ⟨g, hg⟩ := hs.buf src
    refine ⟨_, .get src, ?_⟩
    rw [hg, hs.operand0, hs.operand1]
    exact hs.setResult _
  | set d =>
    obtain ⟨g, hg⟩ := hs.buf d
    refine ⟨_, .set d, hs.setBuf d ?_⟩
    rw [hg, hs.operand0, hs.operand1, hs.operand2]
    exact Buffer.image_set_withGain ..
  | fill d =>
    obtain ⟨g, hg⟩ := hs.buf d
    refine ⟨_, .fill d, hs.setBuf d ?_⟩
    rw [hg, hs.operand0]
    rfl
  | kload k src hc =>
    obtain ⟨g, hg⟩ := hs.buf src
    refine ⟨_, .kload k src (by rw [hs.width, hs.height, hs.params]; exact hc), ?_⟩
    rw [hg]
    exact hs.setKer k _
  | conv d src k degain saturate corrected =>
    obtain ⟨g, hg⟩ := hs.buf src
    refine ⟨_, .conv d src k degain saturate corrected, hs.setBuf d ?_⟩
    rw [hg, hs.ker]
    rfl
  | diff d a b corrected hw hh =>
    obtain ⟨g, hg⟩ := hs.buf a
    obtain ⟨g', hg'⟩ := hs.buf b
    refine ⟨_, .diff d a b corrected (by rw [hs.width, hs.width, hw]) (by rw [hs.height, hs.height, hh]),
      hs.setBuf d ?_⟩
    rw [hg, hg']
    rfl
  | scaledown d src hn =>
    obtain ⟨g, hg⟩ := hs.buf src
    refine ⟨_, .scaledown d src (by rw [hs.operand0]; exact hn), hs.setBuf d ?_⟩
    rw [hg, hs.operand0]
    rfl
  | pack r g b a hg hb ha =>
    obtain ⟨_, hr'⟩ := hs.buf r
    obtain ⟨_, hg'⟩ := hs.buf g
    obtain ⟨_, hb'⟩ := hs.buf b
    obtain ⟨_, ha'⟩ := hs.buf a
    refine ⟨_, .pack r g b a ((hs.sameShape g r).trans hg) ((hs.sameShape b r).trans hb) ((hs.sameShape a r).trans ha), ?_⟩
    rw [hr', hg', hb', ha', hs.pm]
    exact hs.setPacked ..
  | unpack r g b a w x hd =>
    refine ⟨_, .unpack r g b a w x (hs.dims.trans hd), ?_⟩
    simp only [hs.lanePlane]
    exact ((((hs.afterPackedRead _ _).setBuf r rfl).setBuf g rfl).setBuf b rfl).setBuf a rfl

/-- From states that differ in GAINs at most a command leaves two such states (10_state.md R33). -/
theorem exec_sameButGains {i : Instr} {s t s' t' : State} (hs : SameButGains s t) (h : exec i s = .next s')
    (h' : exec i t = .next t') : SameButGains s' t' := by
  have hrej (e : ErrorCode) (he : Rejects s i e) : Rejects t i e :=
    he.congr hs.params hs.operand0 hs.operand1 hs.width hs.height
  rcases exec_related hs.params hrej (fun u hu => hu.sameButGains hs) h with ⟨e, rfl, ht⟩ | ⟨u, v, hR, rfl, ht⟩
  all_goals obtain rfl := Host.Outcome.next.inj (ht.symm.trans h')
  · exact hs.complete e
  · exact hR.complete .ok

/-! ### STATUS -/

/-- The state with another ERR and ERR_STICKY. -/
def State.withStatus (s : State) (e : ErrorCode) (sticky : Bool) : State := { s with err := e, errSticky := sticky }

theorem State.withStatus_afterPackedRead (s : State) (e : ErrorCode) (sticky : Bool) (a n : Nat) :
    (s.withStatus e sticky).afterPackedRead a n = (s.afterPackedRead a n).withStatus e sticky := by
  unfold State.afterPackedRead
  rw [apply_ite (State.withStatus · e sticky)]
  rfl

/-- The effect of a command neither reads nor writes STATUS (10_state.md R49). -/
theorem Effect.withStatus {s u : State} {i : Instr} (h : Effect s i u) (e : ErrorCode) (sticky : Bool) :
    Effect (s.withStatus e sticky) i (u.withStatus e sticky) := by
  cases h with
  | nop => exact .nop
  | create d w x hd => exact .create d w x hd
  | release d => exact .release d
  | get src => exact .get src
  | set d => exact .set d
  | fill d => exact .fill d
  | kload k src hc => exact .kload k src hc
  | conv d src k degain saturate corrected => exact .conv d src k degain saturate corrected
  | diff d a b corrected hw hh => exact .diff d a b corrected hw hh
  | scaledown d src hn => exact .scaledown d src hn
  | pack r g b a hg hb ha => exact .pack r g b a hg hb ha
  | unpack r g b a w x hd =>
    have hu := Effect.unpack (s := s.withStatus e sticky) r g b a w x hd
    rw [State.withStatus_afterPackedRead] at hu
    exact hu

/-- Of the STATUS before it a command keeps ERR_STICKY, and nothing else depends on it (10_state.md R45, R49). -/
theorem exec_withStatus {i : Instr} {s t : State} (h : exec i s = .next t) (e : ErrorCode) (sticky : Bool) :
    exec i (s.withStatus e sticky) = .next { t with errSticky := sticky || decide (t.err ≠ .ok) } := by
  have hrej (e' : ErrorCode) (he : Rejects s i e') : Rejects (s.withStatus e sticky) i e' :=
    he.congr rfl rfl rfl (fun _ => rfl) fun _ => rfl
  have heff (u : State) (hu : Effect s i u) :
      ∃ v, Effect (s.withStatus e sticky) i v ∧ v = u.withStatus e sticky := ⟨_, hu.withStatus e sticky, rfl⟩
  have hp : (s.withStatus e sticky).params = s.params := rfl
  rcases exec_related hp hrej heff h with ⟨e', rfl, ht⟩ | ⟨u, v, rfl, rfl, ht⟩ <;> exact ht

/-- Settles O44: a command's checks and its effect read neither GAIN nor STATUS. -/
theorem noCommandReadsGainOrStatus : Obligations.NoCommandReadsGainOrStatus :=
  ⟨fun _ _ _ _ _ hs h₁ h₂ => (exec_sameButGains hs.symm h₁ h₂).symm, fun _ _ _ e sticky h => exec_withStatus h e sticky⟩

end Sys2Proof.Machine
end

section
/-! PROOFS. 20_memory.md: the register map and what a read and a write at each offset do (R60 to R64), the command a CMD
write issues (R65), the packed window (R66 to R70), and which host accesses are performed, refused or stop the machine (R59,
R69 to R75). -/

namespace Sys2Proof

theorem Params.kernelSlotOk_iff {p : Params} {k : Slot} : p.kernelSlotOk k = true ↔ k.val < p.nker := decide_eq_true_iff

end Sys2Proof

namespace Sys2Proof.Machine

/-! ## The register map read backwards: where each target stands (20_memory.md R60 to R63) -/

/-- The offset of a control register (R60). -/
def ControlReg.offset : ControlReg → Nat
  | .cmd => 0x000
  | .arg0 => 0x004
  | .arg1 => 0x008
  | .arg2 => 0x00C
  | .status => 0x010
  | .result => 0x014
  | .pcount => 0x018
  | .pkW => 0x01C
  | .pkH => 0x020

/-- The offset of a word in its descriptor group (R61, R62). -/
def DescWord.offset : DescWord → Nat
  | .width => 0x0
  | .height => 0x4
  | .gain => 0x8

theorem ControlReg.offset_le (r : ControlReg) : r.offset ≤ 0x020 := by cases r <;> decide

theorem DescWord.offset_le (f : DescWord) : f.offset ≤ 0x8 := by cases f <;> decide

theorem offset_of_controlRegAt {off : Nat} {r : ControlReg} (h : controlRegAt off = some r) : off = r.offset := by
  unfold controlRegAt at h
  split at h <;> cases h <;> rfl

theorem offset_of_descWordAt {off : Nat} {f : DescWord} (h : descWordAt off = some f) : off % 16 = f.offset := by
  unfold descWordAt at h
  split at h <;> cases h <;> assumption

theorem descWordAt_offset (f : DescWord) : descWordAt f.offset = some f := by cases f <;> rfl

/-- `t` is what the map has at `off`: a register's own offset, or a descriptor word of a slot the implementation has. -/
def RegTarget.StandsAt (p : Params) (off : Nat) : RegTarget → Prop
  | .control r => off = r.offset
  | .buffer d f => d.val < p.nbuf ∧ off = 0x100 + 0x10 * d.val + f.offset
  | .kernel k f => k.val < p.nker ∧ off = 0x200 + 0x10 * k.val + f.offset
  | .reserved => True

theorem regTarget_standsAt (p : Params) (off : Nat) : (regTarget p off).StandsAt p off := by
  unfold regTarget
  split
  · split
    · next r hr => exact offset_of_controlRegAt hr
    · trivial
  · split
    · split
      · next f hf =>
        have hword := offset_of_descWordAt hf
        split
        · next hd =>
          refine ⟨Params.bufferSlotOk_iff.mp hd, ?_⟩
          simp only [descSlotAt]
          omega
        · trivial
      · trivial
    · split
      · split
        · next f hf =>
          have hword := offset_of_descWordAt hf
          split
          · next hk =>
            refine ⟨Params.kernelSlotOk_iff.mp hk, ?_⟩
            simp only [descSlotAt]
            omega
          · trivial
        · trivial
      · trivial

/-! ## Reads and writes of the register region -/

theorem State.readReg_control (s : State) (r : ControlReg) : s.readReg r.offset = s.readControl r := by cases r <;> rfl

theorem State.writeReg_control (s : State) (r : ControlReg) (v : Word) : s.writeReg r.offset v = s.writeControl v r := by
  cases r <;> rfl

theorem regTarget_bufferWord {p : Params} {d : Slot} (hd : d.val < p.nbuf) (f : DescWord) :
    regTarget p (0x100 + 0x10 * d.val + f.offset) = .buffer d f := by
  rw [regTarget_buffer p d _ (Nat.lt_of_le_of_lt f.offset_le (by decide)), descWordAt_offset]
  exact if_pos (Params.bufferSlotOk_iff.mpr hd)

theorem regTarget_kernelWord {p : Params} {k : Slot} (hk : k.val < p.nker) (f : DescWord) :
    regTarget p (0x200 + 0x10 * k.val + f.offset) = .kernel k f := by
  rw [regTarget_kernel p k _ (Nat.lt_of_le_of_lt f.offset_le (by decide)), descWordAt_offset]
  exact if_pos (Params.kernelSlotOk_iff.mpr hk)

theorem State.readReg_bufferWord {s : State} {d : Slot} (hd : d.val < s.params.nbuf) (f : DescWord) :
    s.readReg (0x100 + 0x10 * d.val + f.offset) = (s.buf d).descriptor f := by
  rw [State.readReg, regTarget_bufferWord hd]

theorem State.readReg_kernelWord {s : State} {k : Slot} (hk : k.val < s.params.nker) (f : DescWord) :
    s.readReg (0x200 + 0x10 * k.val + f.offset) = (s.ker k).descriptor f := by
  rw [State.readReg, regTarget_kernelWord hk]

theorem State.writeReg_bufferGain {s : State} {d : Slot} (hd : d.val < s.params.nbuf) (v : Word) :
    s.writeReg (0x100 + 0x10 * d.val + 0x8) v = s.writeBufGain d v := by
  rw [State.writeReg, show 0x8 = DescWord.gain.offset from rfl, regTarget_bufferWord hd]

/-- An offset past the control registers, with no descriptor word of an existing slot, reads 0 (R63). -/
theorem State.readReg_eq_zero {s : State} {off : Nat} (hc : 0x020 < off)
    (hb : ∀ (d : Slot) (f : Nat), d.val < s.params.nbuf → f ≤ 0x8 → off ≠ 0x100 + 0x10 * d.val + f)
    (hk : ∀ (k : Slot) (f : Nat), k.val < s.params.nker → f ≤ 0x8 → off ≠ 0x200 + 0x10 * k.val + f) :
    s.readReg off = 0 := by
  have hat := regTarget_standsAt s.params off
  unfold State.readReg
  generalize regTarget s.params off = target at hat ⊢
  cases target with
  | control r =>
    obtain rfl : off = r.offset := hat
    exact absurd r.offset_le (by omega)
  | buffer d f =>
    obtain ⟨hd, hoff⟩ := hat
    exact absurd hoff (hb d _ hd f.offset_le)
  | kernel k f =>
    obtain ⟨hk', hoff⟩ := hat
    exact absurd hoff (hk k _ hk' f.offset_le)
  | reserved => rfl

/-- The five control registers and the GAINs of existing buffers are all that a register write can change (R64). -/
theorem State.writeReg_eq_self {s : State} {off : Nat} (v : Word)
    (hc : off ∉ [0x000, 0x004, 0x008, 0x00C, 0x010])
    (hb : ∀ d : Slot, d.val < s.params.nbuf → off ≠ 0x100 + 0x10 * d.val + 0x8) : s.writeReg off v = s := by
  have hat := regTarget_standsAt s.params off
  unfold State.writeReg
  generalize regTarget s.params off = target at hat ⊢
  cases target with
  | control r =>
    obtain rfl : off = r.offset := hat
    cases r with
    | cmd | arg0 | arg1 | arg2 | status => exact absurd (by decide) hc
    | result | pcount | pkW | pkH => rfl
  | buffer d f =>
    obtain ⟨hd, hoff⟩ := hat
    cases f with
    | gain => exact absurd hoff (hb d hd)
    | width | height => rfl
  | kernel | reserved => rfl

/-- Settles O47: the map read backwards leaves no register in the reserved ranges. -/
theorem controlRegistersRead : Obligations.ControlRegistersRead := fun s =>
  ⟨s.readReg_control .cmd, s.readReg_control .arg0, s.readReg_control .arg1, s.readReg_control .arg2,
    s.readReg_control .status, s.readReg_control .result, s.readReg_control .pcount, s.readReg_control .pkW,
    s.readReg_control .pkH, fun off hoff =>
      State.readReg_eq_zero (by omega) (fun d f _ _ => by omega) fun k f _ _ => by omega⟩

/-- Settles O48: a word of an existing slot stands at its offset, and nothing writable but GAIN stands in the bank. -/
theorem bufferDescriptors : Obligations.BufferDescriptors := by
  intro s d v
  refine ⟨fun hd => ⟨State.readReg_bufferWord hd .width, State.readReg_bufferWord hd .height,
    State.readReg_bufferWord hd .gain, ?_, State.writeReg_bufferGain hd v, fun f hf => ?_⟩, fun hd f hf => ?_⟩
  · exact State.readReg_eq_zero (by omega) (fun e g _ _ => by omega) fun k g _ _ => by omega
  all_goals simp only [List.mem_cons, List.not_mem_nil, or_false] at hf
  · exact State.writeReg_eq_self v (by simp; omega) fun e _ => by omega
  · exact ⟨State.readReg_eq_zero (by omega) (fun e g _ _ => by omega) fun k g _ _ => by omega,
      State.writeReg_eq_self v (by simp; omega) fun e _ => by omega⟩

/-- Settles O49: the kernel bank is read like the buffer bank, and nothing writable stands in it. -/
theorem kernelDescriptors : Obligations.KernelDescriptors := by
  intro s k v
  refine ⟨fun hk => ⟨State.readReg_kernelWord hk .width, State.readReg_kernelWord hk .height, ?_, ?_⟩,
    fun hk f hf => ?_, fun off hlo hhi => ?_⟩
  · have hgain : s.readReg (0x200 + 0x10 * k.val + 0x8) = (s.ker k).gain.signExtend 32 :=
      State.readReg_kernelWord hk .gain
    rw [hgain, BitVec.toInt_signExtend_of_le (by decide)]
  · exact State.readReg_eq_zero (by omega) (fun d g _ _ => by omega) fun e g _ _ => by omega
  · simp only [List.mem_cons, List.not_mem_nil, or_false] at hf
    exact State.readReg_eq_zero (by omega) (fun d g _ _ => by omega) fun e g _ _ => by omega
  · exact State.writeReg_eq_self v (by simp; omega) fun d _ => by omega

/-- Settles O50: STATUS and the ARG registers by their writes, and every other offset by the map read backwards. -/
theorem registerWrites : Obligations.RegisterWrites := by
  intro s v
  obtain ⟨-, -, -, -, -, hstatus⟩ := statusLayout s
  refine ⟨fun hv => ?_, fun hv => ?_, s.writeReg_control .arg0 v, s.writeReg_control .arg1 v,
    s.writeReg_control .arg2 v, fun off hc hb => State.writeReg_eq_self v hc hb⟩
  · rw [hstatus, if_pos hv]
  · rw [hstatus, if_neg (by rw [hv]; exact Bool.false_ne_true)]

/-! ## The packed window (20_memory.md R66, R67, R70) -/

theorem AccessSize.bytes_le (size : AccessSize) : size.bytes ≤ 4 := by cases size <;> decide

theorem inPackedWindow_iff {p : Params} {off : Nat} :
    inPackedWindow p off = true ↔ 0x100000 ≤ off ∧ off < 0x100000 + 4 * p.slotWords := decide_eq_true_iff

theorem inPackedWindow_eq_false_iff {p : Params} {off : Nat} :
    inPackedWindow p off = false ↔ off < 0x100000 ∨ 0x100000 + 4 * p.slotWords ≤ off := by
  rw [← Bool.not_eq_true, inPackedWindow_iff]
  omega

theorem State.readData_register {s : State} {size : AccessSize} {off : Nat} (h : off < 0x100000) :
    s.readData size off = s.readReg off := if_pos h

theorem State.readData_packed {s : State} {size : AccessSize} {off : Nat} (h : inPackedWindow s.params off = true) :
    s.readData size off = s.packedLE (off - 0x100000) size.bytes := by
  obtain ⟨hlo, -⟩ := inPackedWindow_iff.mp h
  exact (if_neg (Nat.not_lt.mpr hlo)).trans (if_pos h)

theorem State.readData_above {s : State} {size : AccessSize} {off : Nat} (h : 0x100000 + 4 * s.params.slotWords ≤ off) :
    s.readData size off = 0 := by
  have hw : ¬ inPackedWindow s.params off = true := by simp [inPackedWindow_eq_false_iff, h]
  exact (if_neg (Nat.not_lt.mpr (Nat.le_of_add_right_le h))).trans (if_neg hw)

theorem State.afterWrite_register {s : State} {size : AccessSize} {off : Nat} (v : Word) (h : off < 0x100000) :
    s.afterWrite size off v = s.writeReg off v := if_pos h

theorem State.afterWrite_packed {s : State} {size : AccessSize} {off : Nat} (v : Word)
    (h : inPackedWindow s.params off = true) :
    s.afterWrite size off v = { s with pm := s.pm.writeLE (off - 0x100000) size.bytes v } := by
  obtain ⟨hlo, -⟩ := inPackedWindow_iff.mp h
  exact (if_neg (Nat.not_lt.mpr hlo)).trans (if_pos h)

theorem State.afterWrite_above {s : State} {size : AccessSize} {off : Nat} (v : Word)
    (h : 0x100000 + 4 * s.params.slotWords ≤ off) : s.afterWrite size off v = s := by
  have hw : ¬ inPackedWindow s.params off = true := by simp [inPackedWindow_eq_false_iff, h]
  exact (if_neg (Nat.not_lt.mpr (Nat.le_of_add_right_le h))).trans (if_neg hw)

/-- Outside the packed window a read changes nothing (R73). -/
theorem State.afterRead_outside {s : State} {size : AccessSize} {off : Nat}
    (h : off < 0x100000 ∨ 0x100000 + 4 * s.params.slotWords ≤ off) : s.afterRead size off = s :=
  if_neg (by simp [inPackedWindow_eq_false_iff, h])

/-- A packed read of defined bytes uses up no draw (10_state.md R39). -/
theorem State.afterRead_defined {s : State} {size : AccessSize} {off : Nat}
    (h : ∀ j, j < size.bytes → (s.pm.read (off - 0x100000 + j)).isSome = true) : s.afterRead size off = s := by
  have hd : s.afterPackedRead (off - packedBase) size.bytes = s := if_pos ((Memory.definedOn_iff ..).mpr h)
  rw [State.afterRead, hd, ite_self]

theorem State.afterRead_eq_draws (s : State) (size : AccessSize) (off : Nat) :
    s.afterRead size off = { s with draws := (s.afterRead size off).draws } := by
  rcases s.afterRead_cases size off with h | h <;> rw [h]

/-- Byte `j` of a packed read is the byte `j` places on (R67, R70). -/
theorem State.packedLE_byte (s : State) (a : Nat) {n j : Nat} (hn : n ≤ 4) (hj : j < n) :
    (s.packedLE a n).extractLsb' (8 * j) 8 = s.packedByte (a + j) := by
  apply BitVec.eq_of_getLsbD_eq
  intro i hi
  have hdiv : (8 * j + i) / 8 = j := by omega
  have hmod : (8 * j + i) % 8 = i := by omega
  rw [BitVec.getLsbD_extractLsb', State.packedLE_getLsbD s a n _ (by omega), hdiv, hmod]
  simp [hi, show 8 * j + i < 8 * n by omega]

/-- Where the bytes of `v` stand least significant first, a packed read gives the low bytes of `v` (R67, R70). -/
theorem State.packedLE_of_bytes {s : State} {a n : Nat} {v : Word} (hn : n ≤ 4)
    (h : ∀ j, j < n → s.pm.read (a + j) = some (v.extractLsb' (8 * j) 8)) :
    (s.packedLE a n).toNat = v.toNat % 2 ^ (8 * n) := by
  apply Nat.eq_of_testBit_eq
  intro i
  rw [Nat.testBit_mod_two_pow]
  by_cases hi : i < 8 * n
  · rw [← BitVec.getLsbD, State.packedLE_getLsbD s a n i (by omega), State.packedByte_of_read (h (i / 8) (by omega)),
      BitVec.getLsbD_extractLsb', Nat.div_add_mod, BitVec.getLsbD]
    simp [Nat.mod_lt]
  · rw [Nat.testBit_lt_two_pow (Nat.lt_of_lt_of_le (s.packedLE_lt a n) (Nat.pow_le_pow_right (by decide) (by omega)))]
    simp [hi]

/-- Settles O53: the window holds the bytes just written, so the read there finds each of them defined. -/
theorem packedWindowIsLittleEndian : Obligations.PackedWindowIsLittleEndian := by
  refine ⟨fun s size n off v hsize _ hlo hhi => ?_, fun s size off v h =>
    ⟨State.afterWrite_above v h, State.readData_above h, State.afterRead_outside (.inr h)⟩⟩
  have hw : inPackedWindow s.params off = true := inPackedWindow_iff.mpr ⟨hlo, hhi⟩
  obtain rfl := AccessSize.bytes_of_mem hsize
  have hbytes : ∀ j, j < size.bytes → (s.pm.writeLE (off - 0x100000) size.bytes v).read (off - 0x100000 + j) =
      some (v.extractLsb' (8 * j) 8) := fun j hj => by
    rw [Memory.read_writeLE, if_pos ⟨Nat.le_add_right .., by omega⟩, Nat.add_sub_cancel_left]
  rw [State.afterWrite_packed v hw]
  refine ⟨Memory.read_writeLE _ _ _ _, ?_, State.afterRead_defined fun j hj => by rw [hbytes j hj]; rfl, rfl⟩
  rw [State.readData_packed (by exact hw)]
  exact State.packedLE_of_bytes size.bytes_le hbytes

/-- A write's effect is on the block: the reply comes with the access (R80). -/
theorem State.afterWrite_replies (s : State) (size : AccessSize) (off : Nat) (v : Word) :
    (s.afterWrite size off v).replies = s.replies := by
  rcases s.afterWrite_cases size off v with ⟨-, h⟩ | ⟨-, h⟩ | h <;> rw [h]
  rcases s.writeReg_cases off v with h | h | h | h | h | h | ⟨d, h⟩ <;> rw [h] <;> rfl

/-! ## One access of the host (20_memory.md R59, R69 to R71) -/

theorem State.access_of_read {s : State} {a : Access} (hl : legalAt a.size (a.offset s.params) = true)
    (hk : a.kind = .read) : s.access a =
      (s.afterRead a.size (a.offset s.params)).addReply (.data (s.readData a.size (a.offset s.params))) := by
  rw [State.access, if_pos hl, hk]

theorem State.access_of_write {s : State} {a : Access} {v : Word} (hl : legalAt a.size (a.offset s.params) = true)
    (hk : a.kind = .write v) : s.access a = (s.afterWrite a.size (a.offset s.params) v).addReply .written := by
  rw [State.access, if_pos hl, hk]

theorem State.access_of_illegal {s : State} {a : Access} (hl : legalAt a.size (a.offset s.params) = false) :
    s.access a = s.refuseAccess := by
  rw [State.access, hl]
  rfl

/-- With no command in flight and reset released the next access in the aperture is performed (R59, R75). -/
theorem step_access {s : State} {a : Access} {rest : List HostMove} (hi : s.inFlight = none)
    (hr : s.resetAsserted = false) (hq : s.hostQueue = .access a :: rest) (ha : a.inAperture s.params = true) :
    step s = .next (({ s with hostQueue := rest } : State).access a) := by
  rw [step_of_idle hi, hostStep_cons hq, State.takeMove_of_idle rest hi, hostMove, if_neg (by simp [hr]), if_pos ha]

/-- Settles O54: the step makes the access, and a legal one is a read or a write of its region. -/
theorem legalAccessesArePerformed : Obligations.LegalAccessesArePerformed := by
  refine ⟨fun s a rest hi hr hq hlo hhi => step_access hi hr hq (Access.inAperture_iff.mpr ⟨hlo, hhi⟩), ?_⟩
  intro s a n off hsize haddr halign hword
  have hoff := Access.offset_of_addr haddr
  have hl : legalAt a.size (a.offset s.params) = true := by
    rw [hoff]
    exact (legalAt_iff hsize).mpr ⟨halign, hword⟩
  obtain rfl := AccessSize.bytes_of_mem hsize
  refine ⟨fun hk => ⟨s.readData a.size off, (s.afterRead a.size off).draws, ?_, fun hreg => ?_, fun hlo hhi => ?_,
    fun habove => ?_⟩, fun v hk => ⟨?_, State.afterWrite_register v⟩⟩
  · rw [State.access_of_read hl hk, hoff, State.afterRead_eq_draws]
    rfl
  · exact ⟨by rw [State.afterRead_outside (.inl hreg)], State.readData_register hreg⟩
  · rw [State.readData_packed (inPackedWindow_iff.mpr ⟨hlo, hhi⟩)]
    refine ⟨State.packedLE_lt .., fun j b hj hb => ?_, fun hdef => by rw [State.afterRead_defined hdef]⟩
    rw [State.packedLE_byte s _ a.size.bytes_le hj, State.packedByte_of_read hb]
  · exact ⟨by rw [State.afterRead_outside (.inr habove)], State.readData_above habove⟩
  · rw [State.access_of_write hl hk, hoff, State.addReply, State.afterWrite_replies]

/-- Settles O55: the width or alignment is not one of `legalAt`'s, so the step refuses the access. -/
theorem illegalAccessesAreRefused : Obligations.IllegalAccessesAreRefused := by
  intro s a rest off hi hr hq haddr hhi hbad
  have hl : legalAt a.size (a.offset s.params) = false := by
    rw [Access.offset_of_addr haddr, legalAt, show packedBase = 0x100000 from rfl]
    rcases hbad with ⟨hreg, hbad⟩ | ⟨hlo, ⟨hsize, hbad⟩ | ⟨hsize, hbad⟩⟩
    · rw [if_pos hreg]
      exact decide_eq_false (by tauto)
    all_goals
      rw [if_neg (Nat.not_lt.mpr hlo), hsize]
      exact decide_eq_false hbad
  have ha : a.inAperture s.params = true := Access.inAperture_iff.mpr (by omega)
  rw [step_access hi hr hq ha, State.access_of_illegal (by exact hl)]
  rfl

/-! ## The command a CMD write issues (20_memory.md R65) -/

/-- Of the register writes only CMD's starts a command. -/
theorem State.writeReg_inFlight {s : State} {off : Nat} (v : Word) (h : off ≠ 0x000) :
    (s.writeReg off v).inFlight = s.inFlight := by
  have hat := regTarget_standsAt s.params off
  unfold State.writeReg
  generalize regTarget s.params off = target at hat ⊢
  cases target with
  | control r =>
    cases r with
    | cmd => exact absurd hat h
    | arg0 | arg1 | arg2 | status | result | pcount | pkW | pkH => rfl
  | buffer d f => cases f <;> rfl
  | kernel | reserved => rfl

/-- The one access that starts a command is a 32-bit write at offset 0. -/
theorem State.access_starts_command {s : State} {a : Access} (hi : s.inFlight = none) (h : (s.access a).inFlight ≠ none) :
    a.size = .word ∧ a.offset s.params = 0x000 ∧ ∃ w, a.kind = .write w := by
  rcases s.access_cases a with ⟨-, ha⟩ | ⟨-, -, ha⟩ | ⟨w, hl, hk, ha⟩ <;> rw [ha] at h
  · exact absurd hi h
  · rw [State.afterRead_eq_draws] at h
    exact absurd hi h
  · rw [State.addReply_inFlight] at h
    rcases s.afterWrite_cases a.size (a.offset s.params) w with ⟨-, hw⟩ | ⟨-, hw⟩ | hw <;> rw [hw] at h
    · have hoff : a.offset s.params = 0x000 := by
        by_contra hne
        exact h ((State.writeReg_inFlight w hne).trans hi)
      rw [hoff] at hl
      obtain ⟨hsize, -⟩ := of_decide_eq_true hl
      exact ⟨hsize, hoff, w, hk⟩
    · exact absurd hi h
    · exact absurd hi h

/-- Settles O51: the write at offset 0 accepts the word, and every other move leaves no command in flight. -/
theorem cmdWriteIssuesTheCommand : Obligations.CmdWriteIssuesTheCommand := by
  refine ⟨fun s w rest hi hr hq => ?_, fun s t hi h hstart => ?_⟩
  · exact ⟨_, _, step_wr hi hr hq (by decide) rfl, rfl, rfl, rfl, rfl, rfl, rfl, rfl, rfl, rfl, rfl,
      rfl, rfl, rfl, rfl, rfl, rfl, rfl, rfl, rfl, rfl⟩
  · rw [step_of_idle hi] at h
    have htake (rest : List HostMove) : (s.takeMove rest).inFlight = none := by simp [hi]
    rcases hostStep_cases h with ⟨-, rfl⟩ | ⟨m, rest, hq, ⟨-, rfl⟩ | ⟨-, rfl⟩ | ⟨a, rfl, -, ha, rfl⟩⟩
    · exact absurd hi hstart
    · exact absurd rfl hstart
    · exact absurd (htake rest) hstart
    · obtain ⟨hsize, hoff, w, hk⟩ := State.access_starts_command (htake rest) hstart
      obtain ⟨hlo, -⟩ := Access.inAperture_iff.mp ha
      have haddr : a.addr = s.params.apertureBase := Nat.le_antisymm (Nat.le_of_sub_eq_zero hoff) hlo
      obtain ⟨addr, size, kind⟩ := a
      subst hsize haddr hk
      exact ⟨w, rest, hq⟩

/-! ## Where a step stops (20_memory.md R59, 70_reset_and_hazards.md R202) -/

/-- A host step goes on, or is refused for an access during reset, or faults on an access outside the aperture. -/
theorem hostStep_next_or_stops (s : State) : (∃ t, hostStep s = .next t) ∨
    ∃ a rest, s.hostQueue = .access a :: rest ∧
      ((s.resetAsserted = true ∧ hostStep s = .refused .accessDuringReset) ∨
       (a.inAperture s.params = false ∧ hostStep s = .fault .outsideAperture)) := by
  cases hq : s.hostQueue with
  | nil => exact .inl ⟨s, by rw [hostStep, hq]⟩
  | cons m rest =>
    rw [hostStep_cons hq]
    cases m with
    | assertReset => exact .inl ⟨_, rfl⟩
    | releaseReset => exact .inl ⟨_, rfl⟩
    | access a =>
      rw [hostMove, State.takeMove_resetAsserted, State.takeMove_params]
      cases hr : s.resetAsserted with
      | true => exact .inr ⟨a, rest, rfl, .inl ⟨rfl, rfl⟩⟩
      | false =>
        cases ha : a.inAperture s.params with
        | true => exact .inl ⟨_, rfl⟩
        | false => exact .inr ⟨a, rest, rfl, .inr ⟨ha, rfl⟩⟩

/-- A step that does not go on is the host's: a command always completes. -/
theorem step_eq_hostStep_of_stops {s : State} (h : ∀ t, step s ≠ .next t) : step s = hostStep s := by
  rcases step_cases s with ⟨c, -, -, hs⟩ | ⟨-, hs⟩
  · obtain ⟨t, ht, -⟩ := runWord_next c.word s
    exact absurd (hs.trans ht) (h t)
  · exact hs

/-- Settles O56: a step that stops is the host's, and the host's step says where it stops. -/
theorem stepStopsOnlyOnForeignOrResetAccess : Obligations.StepStopsOnlyOnForeignOrResetAccess := by
  constructor
  · intro s f h
    rw [step_eq_hostStep_of_stops (fun t ht => nomatch h.symm.trans ht)] at h
    rcases hostStep_next_or_stops s with ⟨t, ht⟩ | ⟨a, rest, hq, ⟨-, hs⟩ | ⟨ha, -⟩⟩
    · cases h.symm.trans ht
    · cases h.symm.trans hs
    · rw [← Bool.not_eq_true, Access.inAperture_iff] at ha
      exact ⟨a, rest, hq, by omega⟩
  · intro s r h
    rw [step_eq_hostStep_of_stops (fun t ht => nomatch h.symm.trans ht)] at h
    rcases hostStep_next_or_stops s with ⟨t, ht⟩ | ⟨a, rest, hq, ⟨hr, hs⟩ | ⟨-, hs⟩⟩
    · cases h.symm.trans ht
    · cases h.symm.trans hs
      exact ⟨rfl, hr, a, rest, hq⟩
    · cases h.symm.trans hs

end Sys2Proof.Machine
end

section
/-! PROOFS. 30_encoding.md: the rows of the opcode table, that encoding and decoding invert each other, and the words that are
illegal (R84 to R95); the command a word or a statement runs (R83, R94, R98, R99), the operands it reads (R83, R91, R205), and
the laws of GET after SET (R106) and of UNPACK after PACK (R170). -/

namespace Sys2Proof

open Laws.MatchesRow (mask pattern)

/-! ## Rows (R90): the opcode chooses the command, the row fixes the bits it does not read -/

/-- The encoded word lies in the row of its command (R90). -/
theorem encode_row (i : Instr) : encode i &&& mask i = pattern i := by
  cases i with
  | nop => exact Laws.MatchesRow.nop
  | create => exact Laws.MatchesRow.create _
  | release => exact Laws.MatchesRow.release _
  | get => exact Laws.MatchesRow.get _
  | set => exact Laws.MatchesRow.set _
  | fill => exact Laws.MatchesRow.fill _
  | kload => exact Laws.MatchesRow.kload _ _
  | conv => exact Laws.MatchesRow.conv _ _ _ _ _ _
  | diff => exact Laws.MatchesRow.diff _ _ _ _
  | scaledown => exact Laws.MatchesRow.scaledown _ _
  | pack => exact Laws.MatchesRow.pack _ _ _ _
  | unpack => exact Laws.MatchesRow.unpack _ _ _ _

/-- Every row fixes the opcode, to that of its command (R84, R90). -/
theorem fieldOp_of_matches {w : Word} {i : Instr} (h : w &&& mask i = pattern i) : fieldOp w = opcodeOf i := by
  have hm : (mask i).extractLsb' 0 8 = 0xFF#8 := by cases i <;> (simp only [mask]; decide)
  rw [fieldOp_of_row hm h, ← fieldOp_of_row hm (encode_row i), fieldOp_encode]

/-- The command of the row with this opcode, its fields read from the word (R84, R90). -/
def rowCommand (w : Word) : Nat → Option Instr
  | 0x00 => some .nop
  | 0x01 => some (.create (fieldA w))
  | 0x02 => some (.release (fieldA w))
  | 0x03 => some (.get (fieldA w))
  | 0x04 => some (.set (fieldA w))
  | 0x05 => some (.fill (fieldA w))
  | 0x06 => some (.kload (fieldA w) (fieldB w))
  | 0x07 => some (.conv (fieldA w) (fieldB w) (fieldC w) (bitDegain w) (bitSaturate w) (bitVariant w))
  | 0x08 => some (.diff (fieldA w) (fieldB w) (fieldC w) (bitVariant w))
  | 0x09 => some (.scaledown (fieldA w) (fieldB w))
  | 0x0A => some (.pack (fieldA w) (fieldB w) (fieldC w) (fieldD w))
  | 0x0B => some (.unpack (fieldA w) (fieldB w) (fieldC w) (fieldD w))
  | _ => none

theorem opcodeOf_lt (i : Instr) : (opcodeOf i).toNat < 0x0C := by cases i <;> simp [opcodeOf]

theorem opcodeOf_of_rowCommand {w : Word} {n : Nat} {i : Instr} (h : rowCommand w n = some i) : n = (opcodeOf i).toNat := by
  unfold rowCommand at h
  split at h <;> cases h <;> rfl

/-- `decodeRow` answers a row the word lies in, or finds that it lies in none (R90). -/
theorem decodeRow_cases (w : Word) :
    (∃ i, decodeRow w = .ok i ∧ w &&& mask i = pattern i ∧ rowCommand w (opcodeOf i).toNat = some i) ∨
    ∃ e, decodeRow w = .error e ∧ ∀ i, ¬(w &&& mask i = pattern i) := by
  cases h : decodeRow w with
  | ok i =>
    refine .inl ⟨i, rfl, row_of_decodeRow h, ?_⟩
    unfold decodeRow at h
    iterate 12
      rcases ite_cases h with ⟨-, hi⟩ | ⟨-, h⟩
      · cases hi; rfl
    cases h
  | error e =>
    refine .inr ⟨e, rfl, fun i => ?_⟩
    unfold decodeRow at h
    iterate 12
      rcases ite_cases h with ⟨-, hi⟩ | ⟨_, h⟩
      · cases hi
    cases i <;> assumption

/-- A word lies in one row at most, its opcode's (R90). -/
theorem decodeRow_eq_ok_iff {w : Word} {i : Instr} :
    decodeRow w = .ok i ↔ w &&& mask i = pattern i ∧ rowCommand w (fieldOp w).toNat = some i := by
  rcases decodeRow_cases w with ⟨j, hd, hj, hcj⟩ | ⟨e, hd, hnone⟩ <;> rw [hd]
  · rw [← fieldOp_of_matches hj] at hcj
    rw [hcj]
    constructor
    · rintro ⟨⟩
      exact ⟨hj, rfl⟩
    · rintro ⟨-, ⟨⟩⟩
      rfl
  · exact ⟨nofun, fun ⟨hi, _⟩ => absurd hi (hnone i)⟩

/-- A word decodes to what its row gives, if the slots are in range (R92). -/
theorem decode_eq_ok_iff {p : Params} {w : Word} {i : Instr} :
    decode p w = .ok i ↔ decodeRow w = .ok i ∧ i.wellFormed p = true := by
  unfold decode
  cases decodeRow w with
  | error e => exact ⟨nofun, nofun⟩
  | ok j =>
    simp only [Except.ok.injEq]
    constructor
    · intro h
      rcases ite_cases h with ⟨hw, ⟨⟩⟩ | ⟨-, ⟨⟩⟩
      exact ⟨rfl, hw⟩
    · rintro ⟨rfl, hw⟩
      rw [if_pos hw]

/-! ## Encoding and decoding -/

/-- The fields of an encoded command are its own (R84, R85). -/
theorem rowCommand_encode (i : Instr) : rowCommand (encode i) (opcodeOf i).toNat = some i := by
  cases i with
  | nop => rfl
  | create d | release d | get d | set d | fill d =>
    refine congrArg some (congrArg _ (slotField_eq ?_))
    simp [encode, extract_or, slot_extracts]
  | kload a b | scaledown a b =>
    refine congrArg some (congrArg₂ _ (slotField_eq ?_) (slotField_eq ?_))
    all_goals simp [encode, extract_or, slot_extracts]
  | conv d src k degain saturate corrected =>
    refine congrArg some (Instr.conv.injEq .. ▸ ⟨slotField_eq ?_, slotField_eq ?_, slotField_eq ?_, ?_, ?_, ?_⟩)
    iterate 3 · simp [encode, extract_or, slot_extracts, mode_extracts]
    · simp [encode, bitDegain, slot_modes, mode_modes, -BitVec.getLsbD_eq_getElem]
    · simp [encode, bitSaturate, slot_modes, mode_modes, -BitVec.getLsbD_eq_getElem]
    · simp [encode, bitVariant, slot_modes, mode_modes, -BitVec.getLsbD_eq_getElem]
  | diff d a b corrected =>
    refine congrArg some (Instr.diff.injEq .. ▸ ⟨slotField_eq ?_, slotField_eq ?_, slotField_eq ?_, ?_⟩)
    iterate 3 · simp [encode, extract_or, slot_extracts, mode_extracts]
    · simp [encode, bitVariant, slot_modes, mode_modes, -BitVec.getLsbD_eq_getElem]
  | pack r g b a | unpack r g b a =>
    refine congrArg some ?_
    simp only [Instr.pack.injEq, Instr.unpack.injEq]
    refine ⟨slotField_eq ?_, slotField_eq ?_, slotField_eq ?_, slotField_eq ?_⟩
    all_goals simp [encode, extract_or, slot_extracts]

/-- A command read from a word is encoded as the row's pattern and the bits the row leaves free (R90). -/
theorem encode_of_rowCommand {w : Word} {n : Nat} {i : Instr} (h : rowCommand w n = some i) :
    encode i = pattern i ||| (w &&& ~~~mask i) := by
  unfold rowCommand at h
  split at h
  case h_1 => cases h; simp [encode, pattern, mask]
  case h_13 => cases h
  all_goals
    cases h
    simp only [encode, fieldA, fieldB, fieldC, fieldD, bitDegain, bitSaturate, bitVariant, slotBits_slotField,
      modeBit_getLsbD, BitVec.or_assoc, and_or_masks, mask, pattern]
    rfl

theorem and_or_and_not (w m : Word) : w &&& m ||| w &&& ~~~m = w := by
  rw [and_or_masks, BitVec.or_not_self]
  exact BitVec.and_allOnes

/-- Settles O5: the encoded word lies in its command's row, whose fields read the command back. -/
theorem decodeInvertsEncode : Obligations.DecodeInvertsEncode := by
  intro p i hw
  refine decode_eq_ok_iff.mpr ⟨decodeRow_eq_ok_iff.mpr ⟨encode_row i, ?_⟩, hw⟩
  rw [fieldOp_encode, rowCommand_encode]

/-- Settles O6: the row fixes every bit of the word but those of the fields, which encoding puts back. -/
theorem encodeInvertsDecode : Obligations.EncodeInvertsDecode := by
  intro p w i h
  obtain ⟨hd, hw⟩ := decode_eq_ok_iff.mp h
  obtain ⟨hrow, hi⟩ := decodeRow_eq_ok_iff.mp hd
  refine ⟨hw, ?_⟩
  rw [encode_of_rowCommand hi, ← hrow, and_or_and_not]

/-! ## The illegal words -/

theorem getLsbD_eq_of_extract_eq {v w : Word} {lo n i : Nat} (h : v.extractLsb' lo n = w.extractLsb' lo n)
    (hi : lo ≤ i ∧ i < lo + n) : v.getLsbD i = w.getLsbD i := by
  obtain ⟨hlo, hhi⟩ := hi
  have hin : i - lo < n := by omega
  have hbit := congrArg (·.getLsbD (i - lo)) h
  simpa only [BitVec.getLsbD_extractLsb', Nat.add_sub_cancel' hlo, hin, decide_true, Bool.true_and] using hbit

/-- Two words are equal if they agree in every field of R84. -/
theorem word_eq_iff_fields {v w : Word} : v = w ↔
    v.extractLsb' 0 8 = w.extractLsb' 0 8 ∧ v.extractLsb' 8 4 = w.extractLsb' 8 4 ∧
    v.extractLsb' 12 4 = w.extractLsb' 12 4 ∧ v.extractLsb' 16 4 = w.extractLsb' 16 4 ∧
    v.extractLsb' 20 4 = w.extractLsb' 20 4 ∧ v.getLsbD 24 = w.getLsbD 24 ∧ v.getLsbD 25 = w.getLsbD 25 ∧
    v.getLsbD 26 = w.getLsbD 26 ∧ v.extractLsb' 27 5 = w.extractLsb' 27 5 := by
  refine ⟨by rintro rfl; simp, ?_⟩
  rintro ⟨hop, ha, hb, hc, hd, h24, h25, h26, hres⟩
  refine BitVec.eq_of_getLsbD_eq fun i hi => ?_
  obtain h | h | h | h | h | rfl | rfl | rfl | h : (0 ≤ i ∧ i < 0 + 8) ∨ (8 ≤ i ∧ i < 8 + 4) ∨ (12 ≤ i ∧ i < 12 + 4) ∨
    (16 ≤ i ∧ i < 16 + 4) ∨ (20 ≤ i ∧ i < 20 + 4) ∨ i = 24 ∨ i = 25 ∨ i = 26 ∨ (27 ≤ i ∧ i < 27 + 5) := by omega
  · exact getLsbD_eq_of_extract_eq hop h
  · exact getLsbD_eq_of_extract_eq ha h
  · exact getLsbD_eq_of_extract_eq hb h
  · exact getLsbD_eq_of_extract_eq hc h
  · exact getLsbD_eq_of_extract_eq hd h
  · exact h24
  · exact h25
  · exact h26
  · exact getLsbD_eq_of_extract_eq hres h

/-- The bits beside the opcode and 31:27 that the row of a command fixes (R90, R94). -/
def FixedFieldsOk (w : Word) : Instr → Prop
  | .nop => w = 0
  | .create _ | .release _ | .get _ | .set _ | .fill _ =>
    fieldB w = 0 ∧ fieldC w = 0 ∧ fieldD w = 0 ∧ bitDegain w = false ∧ bitSaturate w = false ∧ bitVariant w = false
  | .kload .. => fieldC w = 0 ∧ fieldD w = 0 ∧ bitDegain w = false ∧ bitSaturate w = false ∧ bitVariant w = false
  | .conv .. => fieldD w = 0
  | .diff .. => fieldD w = 0 ∧ bitDegain w = false ∧ bitSaturate w = false
  | .scaledown .. => fieldC w = 0 ∧ fieldD w = 0 ∧ bitDegain w = false ∧ bitSaturate w = false ∧ bitVariant w = true
  | .pack .. | .unpack .. => bitDegain w = false ∧ bitSaturate w = false ∧ bitVariant w = false

theorem slotField_eq_zero_iff {w : Word} {lo : Nat} : slotField w lo = 0 ↔ w.extractLsb' lo 4 = 0 := by
  rw [← BitVec.toNat_inj, Fin.ext_iff]
  rfl

theorem and_word_mask (w : Word) : w &&& 0xFFFFFFFF#32 = w := BitVec.and_allOnes

theorem and_byte_mask (v : BitVec 8) : v &&& 0xFF#8 = v := BitVec.and_allOnes

theorem and_slot_mask (v : BitVec 4) : v &&& 0xF#4 = v := BitVec.and_allOnes

theorem and_reserved_mask (v : BitVec 5) : v &&& 0x1F#5 = v := BitVec.and_allOnes

/-- A word lies in a row if its opcode is the row's, and so are the fields that the row fixes and bits 31:27. -/
theorem matches_iff {w : Word} {i : Instr} :
    w &&& mask i = pattern i ↔ fieldOp w = opcodeOf i ∧ FixedFieldsOk w i ∧ w.extractLsb' 27 5 = 0 := by
  cases i with
  | nop =>
    rw [mask, pattern, and_word_mask]
    exact ⟨by rintro rfl; exact ⟨rfl, rfl, rfl⟩, fun ⟨_, h, _⟩ => h⟩
  | _ =>
    simp [mask, pattern, opcodeOf, FixedFieldsOk, word_eq_iff_fields, fieldOp, fieldB, fieldC, fieldD, slotField_eq_zero_iff,
      bitDegain, bitSaturate, bitVariant, BitVec.extractLsb'_and, and_byte_mask, and_slot_mask, and_reserved_mask, and_assoc,
      -BitVec.getLsbD_eq_getElem]

/-- A word decodes to its opcode's command, if what the row fixes is as fixed and the slots are in range (R90, R92). -/
theorem decode_eq_ok_iff_fields {p : Params} {w : Word} {i : Instr} : decode p w = .ok i ↔
    rowCommand w (fieldOp w).toNat = some i ∧ w.extractLsb' 27 5 = 0 ∧ FixedFieldsOk w i ∧ i.wellFormed p = true := by
  rw [decode_eq_ok_iff, decodeRow_eq_ok_iff, matches_iff]
  constructor
  · rintro ⟨⟨⟨-, hf, hr⟩, hi⟩, hw⟩
    exact ⟨hi, hr, hf, hw⟩
  · rintro ⟨hi, hr, hf, hw⟩
    exact ⟨⟨⟨BitVec.eq_of_toNat_eq (opcodeOf_of_rowCommand hi), hf, hr⟩, hi⟩, hw⟩

/-- An opcode of no row is illegal, whatever the other fields. -/
theorem decode_error_of_opcode {w : Word} (p : Params) (h : 0x0C ≤ (fieldOp w).toNat) : ∃ e, decode p w = .error e := by
  cases hd : decode p w with
  | error e => exact ⟨e, rfl⟩
  | ok i =>
    obtain ⟨hi, -⟩ := decode_eq_ok_iff_fields.mp hd
    rw [opcodeOf_of_rowCommand hi] at h
    exact absurd h (not_le.mpr (opcodeOf_lt i))

/-- A word of a row's opcode is illegal for its reserved bits, for the bits that the row fixes, or for a slot. -/
theorem decode_error_iff_of_opcode {p : Params} {w : Word} {i : Instr} (h : rowCommand w (fieldOp w).toNat = some i) :
    (∃ e, decode p w = .error e) ↔ w.extractLsb' 27 5 ≠ 0 ∨ ¬FixedFieldsOk w i ∨ i.wellFormed p = false := by
  cases hd : decode p w with
  | error e =>
    have hno : ¬(w.extractLsb' 27 5 = 0 ∧ FixedFieldsOk w i ∧ i.wellFormed p = true) := fun hok => by
      cases hd.symm.trans (decode_eq_ok_iff_fields.mpr ⟨h, hok⟩)
    rw [not_and_or, not_and_or, Bool.not_eq_true] at hno
    simpa using hno
  | ok j =>
    obtain ⟨hj, hr, hf, hw⟩ := decode_eq_ok_iff_fields.mp hd
    obtain rfl := Option.some.inj (hj.symm.trans h)
    simp [hr, hf, hw]

/-- Settles O7: one case per opcode; the row's fixed fields and slots, negated, are the list's. -/
theorem illegalWordsAreExactlyTheListed : Obligations.IllegalWordsAreExactlyTheListed := by
  intro p w
  by_cases hop : 0x0C ≤ (fieldOp w).toNat
  · exact iff_of_true (decode_error_of_opcode p hop) (.inl hop)
  · obtain ⟨n, hn⟩ : ∃ n, (fieldOp w).toNat = n := ⟨_, rfl⟩
    rw [hn] at hop ⊢
    interval_cases n
    all_goals
      rw [decode_error_iff_of_opcode (congrArg (rowCommand w) hn)]
      simp [FixedFieldsOk, Instr.wellFormed, Params.bufferSlotOk, Params.kernelSlotOk, not_and_or,
        or_assoc, Bool.and_eq_false_iff, -not_and, -Bool.and_eq_false_imp]

/-- Settles O4: each word is decoded row by row. -/
theorem specWordsDecode : Obligations.SpecWordsDecode := by
  unfold Obligations.SpecWordsDecode
  decide

end Sys2Proof

namespace Sys2Proof.Machine

/-! ## The command in flight (R83) -/

/-- A word in flight that no host move precedes is run (log 1). -/
theorem step_of_running {s : State} {c : InFlight} (hc : s.inFlight = some c) (hl : s.hostLands c = false) :
    step s = runWord c.word s := by
  simp [step, hc, hl]

theorem runWord_of_decode {s : State} {w : Word} {i : Instr} (h : decode s.params w = .ok i) : runWord w s = exec i s := by
  rw [runWord, h]

theorem runWord_of_illegal {s : State} {w : Word} {e : DecodeError} (h : decode s.params w = .error e) :
    runWord w s = .next (s.complete .illegalCommand) := by
  rw [runWord, h]

/-- A command without slack is preceded by no host move (log 1). -/
theorem State.hostLands_of_slack_zero {s : State} {c : InFlight} (h : c.slack = 0) : s.hostLands c = false := by
  unfold State.hostLands
  split
  · rfl
  · simp [h]

/-- Settles O8: with no move landing the step runs the word, which is `exec` of what it decodes to. -/
theorem stepRunsTheDecodedCommand : Obligations.StepRunsTheDecodedCommand := by
  have running (s : State) (c : InFlight) (i : Instr) (hc : s.inFlight = some c) (hl : s.hostLands c = false)
      (hd : decode s.params c.word = .ok i) : step s = exec i s :=
    (step_of_running hc hl).trans (runWord_of_decode hd)
  exact ⟨running, fun s w i hd => running _ _ i rfl (State.hostLands_of_slack_zero rfl) hd⟩

/-- The completion of an illegal command (R94). -/
theorem State.complete_illegalCommand (s : State) :
    s.complete .illegalCommand = { s with inFlight := none, err := .illegalCommand, errSticky := true } := by
  simp [State.complete]

/-- Settles O9: an illegal word and a slot out of range both complete with IllegalCommand. -/
theorem illegalCommandChangesOnlyStatus : Obligations.IllegalCommandChangesOnlyStatus := by
  refine ⟨fun s c e hc hl hd => ?_, fun i s hw => ?_⟩
  · rw [step_of_running hc hl, runWord_of_illegal hd, State.complete_illegalCommand]
  · rw [exec_illegal hw, State.complete_illegalCommand]

/-! ## Assembled statements (R98) -/

/-- What a 32-bit host write to a control register leaves, the reply to the host included (20_memory.md R64, R80). -/
def State.hostWrite (s : State) (r : ControlReg) (v : Word) : State :=
  ((s.takeMove s.hostQueue.tail).writeControl v r).addReply .written

/-- What such writes leave, one after another. -/
def State.hostWrites (s : State) (ws : List (ControlReg × Word)) : State := ws.foldl (fun t x => t.hostWrite x.1 x.2) s

/-- With no command in flight a step makes the host's write of a control register (20_memory.md R64, R75). -/
theorem step_controlWrite {s : State} {r : ControlReg} {v : Word} {rest : List HostMove} (hi : s.inFlight = none)
    (hr : s.resetAsserted = false) (hq : s.hostQueue = wr s.params r.offset v :: rest) :
    step s = .next (s.hostWrite r v) := by
  obtain ⟨hlt, halign⟩ : r.offset < 0x100000 ∧ r.offset % 4 = 0 := by cases r <;> decide
  rw [step_wr hi hr hq hlt halign, State.writeReg_control, State.hostWrite, hq, List.tail_cons]

theorem State.hostWrite_inFlight {s : State} {r : ControlReg} (v : Word) (hi : s.inFlight = none) (hr : r ≠ .cmd) :
    (s.hostWrite r v).inFlight = none := by
  cases r with
  | cmd => exact absurd rfl hr
  | _ => simp [State.hostWrite, State.writeControl, hi]

/-- A write of a control register takes its move from the queue, and reaches no slot, no packed memory and not RESULT. -/
theorem State.hostWrite_frame (s : State) (r : ControlReg) (v : Word) :
    (s.hostWrite r v).params = s.params ∧ (s.hostWrite r v).resetAsserted = s.resetAsserted ∧
    (s.hostWrite r v).hostQueue = s.hostQueue.tail ∧ (s.hostWrite r v).bufs = s.bufs ∧
    (s.hostWrite r v).kers = s.kers ∧ (s.hostWrite r v).pm = s.pm ∧ (s.hostWrite r v).result = s.result := by
  cases r <;> simp [State.hostWrite, State.writeControl]

/-- A write of CMD latches the word and the ARG registers (R83). -/
theorem State.hostWrite_cmd (s : State) (v : Word) : (s.hostWrite .cmd v).cmd = v ∧ (s.hostWrite .cmd v).inFlight =
    some { word := v, arg0 := s.arg0, arg1 := s.arg1, arg2 := s.arg2, slack := s.latencies.headD 0 } := by
  simp [State.hostWrite, State.writeControl]

theorem State.hostWrites_frame (s : State) (ws : List (ControlReg × Word)) :
    (s.hostWrites ws).hostQueue = s.hostQueue.drop ws.length ∧ (s.hostWrites ws).bufs = s.bufs ∧
    (s.hostWrites ws).kers = s.kers ∧ (s.hostWrites ws).pm = s.pm ∧ (s.hostWrites ws).result = s.result := by
  induction ws generalizing s with
  | nil => exact ⟨rfl, rfl, rfl, rfl, rfl⟩
  | cons x ws ih =>
    obtain ⟨-, -, hq, hb, hk, hm, hres⟩ := s.hostWrite_frame x.1 x.2
    obtain ⟨hq', hb', hk', hm', hres'⟩ := ih (s.hostWrite x.1 x.2)
    refine ⟨hq'.trans ?_, hb'.trans hb, hk'.trans hk, hm'.trans hm, hres'.trans hres⟩
    rw [hq, List.drop_tail, List.length_cons]

/-- Writes of control registers and then of CMD, each made in its own step. -/
theorem run_controlWrites {v : Word} {rest : List HostMove} (ws : List (ControlReg × Word)) (hws : ∀ x ∈ ws, x.1 ≠ .cmd)
    {s : State} (hi : s.inFlight = none) (hr : s.resetAsserted = false)
    (hq : s.hostQueue = ws.map (fun x => wr s.params x.1.offset x.2) ++ wr s.params 0x000 v :: rest) :
    core.run (ws.length + 1) s = .next ((s.hostWrites ws).hostWrite .cmd v) := by
  induction ws generalizing s with
  | nil => exact (core_run_next (step_controlWrite (r := .cmd) hi hr hq)).trans (core_run_zero _)
  | cons x ws ih =>
    obtain ⟨hx, hws⟩ := List.forall_mem_cons.mp hws
    obtain ⟨hparams, hreset, hqueue, -⟩ := s.hostWrite_frame x.1 x.2
    rw [List.length_cons, core_run_next (step_controlWrite hi hr hq)]
    exact ih hws (State.hostWrite_inFlight _ hi hx) (hreset.trans hr) (by rw [hqueue, hparams, hq]; rfl)

/-- The ARG writes of a command statement (R98). -/
def argWrites (i : Instr) (a0 a1 a2 : Word) : List (ControlReg × Word) :=
  [(.arg0, a0), (.arg1, a1), (.arg2, a2)].take (argCount i)

theorem assemble_eq (p : Params) (i : Instr) (a0 a1 a2 : Word) : assemble p i a0 a1 a2 =
    (argWrites i a0 a1 a2).map (fun x => wr p x.1.offset x.2) ++ [wr p 0x000 (encode i)] := by
  rw [argWrites, List.map_take]
  rfl

theorem argWrites_length (i : Instr) (a0 a1 a2 : Word) : (argWrites i a0 a1 a2).length = argCount i := by
  cases i <;> rfl

theorem argWrites_ne_cmd (i : Instr) (a0 a1 a2 : Word) : ∀ x ∈ argWrites i a0 a1 a2, x.1 ≠ .cmd := by
  intro x hx
  have hmem := List.mem_of_mem_take hx
  simp only [List.mem_cons, List.not_mem_nil, or_false] at hmem
  rcases hmem with rfl | rfl | rfl <;> exact nofun

/-- The ARG writes put in place the operands that the command reads (R91). -/
theorem State.hostWrites_argWrites (s : State) (i : Instr) (a0 a1 a2 : Word) :
    (1 ≤ argCount i → (s.hostWrites (argWrites i a0 a1 a2)).arg0 = a0) ∧
    (2 ≤ argCount i → (s.hostWrites (argWrites i a0 a1 a2)).arg1 = a1) ∧
    (3 ≤ argCount i → (s.hostWrites (argWrites i a0 a1 a2)).arg2 = a2) := by
  unfold State.hostWrites argWrites
  have hn : argCount i ≤ 3 := by cases i <;> simp [argCount]
  generalize argCount i = n at *
  interval_cases n <;> simp [State.hostWrite, State.writeControl]

/-- Settles O14: the ARG writes put the operands in place, one step each, and the CMD write latches them. -/
theorem assembledWritesIssueTheCommand : Obligations.AssembledWritesIssueTheCommand := by
  intro s i a0 a1 a2 rest hi hr hq
  rw [assemble_eq, List.append_assoc] at hq
  have hrun := run_controlWrites _ (argWrites_ne_cmd i a0 a1 a2) hi hr hq
  rw [argWrites_length] at hrun
  obtain ⟨h0, h1, h2⟩ := s.hostWrites_argWrites i a0 a1 a2
  obtain ⟨hqueue, hbufs, hkers, hpm, hresult⟩ := s.hostWrites_frame (argWrites i a0 a1 a2)
  obtain ⟨hcmd, hflight⟩ := (s.hostWrites (argWrites i a0 a1 a2)).hostWrite_cmd (encode i)
  obtain ⟨-, -, hqueue', hbufs', hkers', hpm', hresult'⟩ :=
    (s.hostWrites (argWrites i a0 a1 a2)).hostWrite_frame .cmd (encode i)
  refine ⟨_, _, hrun, hflight, rfl, hcmd, h0, h1, h2, ?_, hbufs'.trans hbufs, hkers'.trans hkers, hpm'.trans hpm,
    hresult'.trans hresult⟩
  rw [hqueue', hqueue, hq]
  simp

/-! ## A command with an effect -/

/-- A well-formed command that has an `Effect` leaves nothing else. -/
theorem exec_next_eq_of_effect {i : Instr} {s t u : State} (h : exec i s = .next t) (hw : i.wellFormed s.params = true)
    (he : Effect s i u) : t = u.complete .ok :=
  Host.Outcome.next.inj (h.symm.trans (exec_of_effect hw he))

/-! ## FILL, COPY and CLEAR (R99, R104) -/

/-- Settles O21: the slot takes its buffer filled with the value. -/
theorem fillSetsEverySample : Obligations.FillSetsEverySample := by
  intro s d hp hd
  obtain ⟨t, ht, herr, hst, hb⟩ := exec_of_setBuf hp hd (.fill d) (Params.bufferSlotOk_iff.mpr hd)
  refine ⟨t, ht, herr, hst, ?_⟩
  rw [hb, valueOperand_eq_setWidth]
  exact ⟨rfl, rfl, rfl, List.length_replicate, fun v hv => List.eq_of_mem_replicate hv⟩

/-- The literal difference of a buffer with all its samples is a copy of it, with GAIN 1.0 (42_difference.md R147, R149). -/
theorem difference_literal {a : Buffer} (b : Buffer) (ha : a.samples.length = a.width * a.height) :
    difference false a b = { a with gain := defaultGain } := by
  have hsamples : (difference false a b).samples = a.samples := by
    refine List.ext_getElem ((bufferOf_length ..).trans ha.symm) fun i hi hi' => ?_
    have hat := difference_at false b (ha ▸ hi' : i < a.width * a.height)
    rw [diffSample_literal, ← Buffer.getD_eq_at _ hi 0, ← Buffer.getD_eq_at _ hi' 0] at hat
    simpa [List.getD_eq_getElem?_getD, hi, hi'] using hat
  rw [← hsamples]
  rfl

theorem diff_wellFormed_iff {p : Params} {d a b : Slot} {corrected : Bool} :
    (Instr.diff d a b corrected).wellFormed p = true ↔ d.val < p.nbuf ∧ a.val < p.nbuf ∧ b.val < p.nbuf := by
  simp [Instr.wellFormed, Params.bufferSlotOk_iff, and_assoc]

/-- Settles O34: COPY is the literal difference, which copies; CLEAR is FILL with 0. -/
theorem pseudoInstructionsCopyAndClear : Obligations.PseudoInstructionsCopyAndClear := by
  refine ⟨fun s d src hp hd hsrc hlen => ?_, fun s d hp hd h0 => ?_⟩
  · obtain ⟨t, ht, herr, -, hb⟩ := exec_of_setBuf hp hd (.diff d src src false rfl rfl)
      (diff_wellFormed_iff.mpr ⟨hd, hsrc, hsrc⟩)
    exact ⟨t, ht, herr, hb.trans (difference_literal _ hlen)⟩
  · obtain ⟨t, ht, herr, -, -, -, -, -, hfill⟩ := fillSetsEverySample s d hp hd
    refine ⟨t, ht, herr, fun v hv => ?_⟩
    rw [hfill v hv, h0]
    rfl

/-! ## GET after SET (R106) -/

/-- The operands a command finds are those its meaning reads (R83; log 9). -/
theorem State.findsArgs_iff {s : State} {a0 a1 a2 : Word} :
    s.findsArgs a0 a1 a2 ↔ s.operand0 = a0 ∧ s.operand1 = a1 ∧ s.operand2 = a2 := by
  unfold State.findsArgs State.operand0 State.operand1 State.operand2
  cases s.inFlight <;> rfl

/-- Off the grid Set changes nothing (R15). -/
theorem Buffer.set_off_grid {b : Buffer} {x y : Int} (v : Sample)
    (h : x + y * b.width < 0 ∨ (b.width : Int) * b.height ≤ x + y * b.width) : b.set x y v = b := by
  rw [Buffer.set, if_neg (by rw [inGrid_flatIndex_iff]; omega)]

/-- Get after Set at coordinates of a sample gives the value (R14, R15). -/
theorem Buffer.get_set_self {b : Buffer} {x y : Int} (v : Sample) (hl : b.samples.length = b.width * b.height)
    (h₁ : 0 ≤ x + y * b.width) (h₂ : x + y * b.width < (b.width : Int) * b.height) : (b.set x y v).get x y = v := by
  have hlt : (x + y * b.width).toNat < b.samples.length := by
    rw [hl]; zify; rwa [Int.toNat_of_nonneg h₁]
  refine Buffer.get_of_getElem? (by simpa using h₁) (by simpa using h₂) ?_
  rw [Buffer.set_width, Buffer.set_getElem?, if_pos ⟨h₁, h₂, Int.toNat_of_nonneg h₁⟩, List.getElem?_eq_getElem hlt]
  rfl

/-- Writing a slot's own buffer into it changes no slot. -/
theorem State.setBuf_buf_self (s : State) (d e : Slot) : (s.setBuf d (s.buf d)).buf e = s.buf e := by
  by_cases hd : d.val < s.bufs.length
  · by_cases he : e = d
    · rw [he, State.buf_setBuf_self _ hd]
    · exact State.buf_setBuf_ne s _ he
  · rw [State.buf, State.setBuf_bufs, List.set_eq_of_length_le (not_lt.mp hd), State.buf]

/-- Settles O22: the GET reads the buffer the SET left, which off the grid is the one before. -/
theorem getAfterSet : Obligations.GetAfterSet := by
  intro s t m u d x y v w hp hd hl hs ht hmp hmb hm hu idx hidx
  obtain ⟨hs0, hs1, hs2⟩ := State.findsArgs_iff.mp hs
  obtain ⟨hm0, hm1, -⟩ := State.findsArgs_iff.mp hm
  have hset : Effect s (.set d) (s.setBuf d ((s.buf d).set x.toInt y.toInt (v.setWidth 16))) := by
    rw [← hs0, ← hs1, ← hs2, ← valueOperand_eq_setWidth]
    exact .set d
  have hget : Effect m (.get d) (m.setResult (((m.buf d).get x.toInt y.toInt).signExtend 32)) := by
    rw [← hm0, ← hm1]
    exact .get d
  obtain rfl := exec_next_eq_of_effect ht (Params.bufferSlotOk_iff.mpr hd) hset
  have hd' : d.val < m.params.nbuf := by rw [hmp]; exact hd
  obtain rfl := exec_next_eq_of_effect hu (Params.bufferSlotOk_iff.mpr hd') hget
  have hb : m.buf d = (s.buf d).set x.toInt y.toInt (v.setWidth 16) := by
    rw [State.buf, hmb]
    exact State.buf_setBuf_self _ (hp.1 ▸ hd)
  simp only [State.complete_result, State.setResult_result, hb, hidx]
  refine ⟨fun ⟨h₁, h₂⟩ => by rw [Buffer.get_set_self _ hl h₁ h₂], fun hoff => ?_⟩
  rw [Buffer.set_off_grid _ hoff, Buffer.get_off_grid hoff]
  refine ⟨fun e => ?_, rfl⟩
  rw [State.buf_complete, State.setBuf_buf_self]

/-! ## UNPACK after PACK (R170) -/

/-- The lane value of a sample in 0 .. 255, zero-extended, is the sample (R163, R168). -/
theorem c8_setWidth_of_byte {v : Sample} (h₁ : 0 ≤ v.toInt) (h₂ : v.toInt ≤ 255) : (c8 v).setWidth 16 = v := by
  rw [c8, if_neg (by omega)]
  have hv : v.toNat ≤ 255 := by
    have hcond := BitVec.toInt_eq_toNat_cond v
    split at hcond <;> omega
  exact BitVec.eq_of_toNat_eq (by simp; omega)

theorem c8_of_negative {v : Sample} (h : v.toInt < 0) : c8 v = 0 := if_pos h

/-- The bytes of an interleaved pixel are the lane values of red, green, blue and alpha (44_channel_pack.md R164). -/
theorem interleaved_read_lanes (m : Memory) (r g b a : Buffer) (n : Nat) :
    (∀ i, i < n → (interleaved m r g b a n).read (4 * i + 0) = some (c8 (r.at i))) ∧
    (∀ i, i < n → (interleaved m r g b a n).read (4 * i + 1) = some (c8 (g.at i))) ∧
    (∀ i, i < n → (interleaved m r g b a n).read (4 * i + 2) = some (c8 (b.at i))) ∧
    (∀ i, i < n → (interleaved m r g b a n).read (4 * i + 3) = some (c8 (a.at i))) := by
  have lane (i j : Nat) (hi : i < n) (hj : j < 4) : (interleaved m r g b a n).read (4 * i + j) =
      some ((packedPixel (r.at i) (g.at i) (b.at i) (a.at i)).extractLsb' (8 * j) 8) := by
    have hdiv : (4 * i + j) / 4 = i := by omega
    have hmod : (4 * i + j) % 4 = j := by omega
    rw [interleaved_read, if_pos (by omega), hdiv, hmod]
  have lanes (i : Nat) := packedPixel_lanes (r.at i) (g.at i) (b.at i) (a.at i)
  refine ⟨fun i hi => ?_, fun i hi => ?_, fun i hi => ?_, fun i hi => ?_⟩
  all_goals
    obtain ⟨hr, hg, hb, ha⟩ := lanes i
    rw [lane i _ hi (by decide)]
  exacts [congrArg some hr, congrArg some hg, congrArg some hb, congrArg some ha]

/-- A dimension of a buffer, taken as an operand, is the dimension (R31, R96). -/
theorem signedOperand_ofNat {n : Nat} (h : n < 2 ^ 31) : signedOperand (BitVec.ofNat 32 n) = n := by
  have hn : (BitVec.ofNat 32 n).toNat = n := Nat.mod_eq_of_lt (by omega)
  rw [signedOperand, BitVec.toInt_eq_toNat_of_lt (by omega), hn]

/-- What R170 says of a plane `p` and the buffer `q` it comes back as, in its first `n` samples. -/
def Buffer.ComesBackAs (p q : Buffer) (n : Nat) : Prop :=
  q.width = p.width ∧ q.height = p.height ∧
    ∀ i, i < n → (0 ≤ (p.at i).toInt ∧ (p.at i).toInt ≤ 255 → q.at i = p.at i) ∧ ((p.at i).toInt < 0 → q.at i = 0)

/-- A plane comes back as a buffer of its shape whose samples are the plane's lane values. -/
theorem Buffer.comesBackAs_of_lanes {p q : Buffer} {n : Nat} (hw : q.width = p.width) (hh : q.height = p.height)
    (h : ∀ i, i < n → (q.at i).toNat = (c8 (p.at i)).toNat) : p.ComesBackAs q n := by
  refine ⟨hw, hh, fun i hi => ?_⟩
  have hq : q.at i = (c8 (p.at i)).setWidth 16 :=
    BitVec.eq_of_toNat_eq (by rw [h i hi, BitVec.toNat_setWidth_of_le (by decide)])
  rw [hq]
  exact ⟨fun ⟨h₁, h₂⟩ => c8_setWidth_of_byte h₁ h₂, fun hn => by rw [c8_of_negative hn]; rfl⟩

/-- Settles O39: lane `j` of packed memory holds the lane values of plane `j`, which UNPACK reads as defined bytes. -/
theorem packThenUnpackRoundTrip : Obligations.PackThenUnpackRoundTrip := by
  intro s t m u r g b a r' g' b' a' w hinv hpack hunpack hshape hnodup ht hmp hms hmpm hm hu
  have shape (p : Slot) (hp : p ∈ [r, g, b, a]) : (s.buf p).sameShape (s.buf r) = true :=
    Buffer.sameShape_iff.mpr (hshape p hp)
  obtain rfl := exec_next_eq_of_effect ht hpack
    (.pack r g b a (shape g (by simp)) (shape b (by simp)) (shape a (by simp)))
  simp only [State.complete_params, State.setPacked_params] at hmp
  simp only [State.complete_pm, State.setPacked_pm] at hmpm
  obtain ⟨hm0, hm1, -⟩ := State.findsArgs_iff.mp hm
  obtain ⟨-, hc, hw, hh⟩ := Buffer.wf_iff.mp (hinv.storeInv.buf_wf r)
  have ho0 : signedOperand m.operand0 = (s.buf r).width := by rw [hm0, signedOperand_ofNat hw]
  have ho1 : signedOperand m.operand1 = (s.buf r).height := by rw [hm1, signedOperand_ofNat hh]
  obtain ⟨u', hu', herr, -, hplanes⟩ := unpackSplitsChannels m r' g' b' a' hms (hmp ▸ hunpack) (by omega) (by omega)
    (by rw [ho0, ho1, hmp]; exact_mod_cast hc)
  obtain rfl := Host.Outcome.next.inj (hu.symm.trans hu')
  have plane (p d : Slot) (j : Nat) (hp : p ∈ [r, g, b, a]) (hd : (d = r' ∧ d ∉ [g', b', a'] ∧ j = 0) ∨
      (d = g' ∧ d ∉ [b', a'] ∧ j = 1) ∨ (d = b' ∧ d ≠ a' ∧ j = 2) ∨ (d = a' ∧ j = 3))
      (hlane : ∀ i, i < (s.buf r).width * (s.buf r).height → m.pm.read (4 * i + j) = some (c8 ((s.buf p).at i))) :
      (s.buf p).ComesBackAs (u.buf d) ((s.buf r).width * (s.buf r).height) := by
    obtain ⟨hpw, hph⟩ := hshape p hp
    obtain ⟨hdw, hdh, -, -, hsamples⟩ := hplanes d j hd
    rw [ho0, Nat.cast_inj] at hdw
    rw [ho1, Nat.cast_inj] at hdh
    rw [hdw, hdh] at hsamples
    refine Buffer.comesBackAs_of_lanes (hdw.trans hpw.symm) (hdh.trans hph.symm) fun i hi => ?_
    obtain ⟨-, hdefined⟩ := hsamples i hi
    exact hdefined _ (hlane i hi)
  obtain ⟨hlr, hlg, hlb, hla⟩ := interleaved_read_lanes s.pm (s.buf r) (s.buf g) (s.buf b) (s.buf a)
    ((s.buf r).width * (s.buf r).height)
  rw [← hmpm] at hlr hlg hlb hla
  simp only [List.nodup_cons, List.not_mem_nil, not_false_eq_true, List.nodup_nil, and_true, List.mem_singleton] at hnodup
  obtain ⟨hr', hg', hb'⟩ := hnodup
  refine ⟨herr, List.forall_mem_cons.mpr ⟨?_, List.forall_mem_cons.mpr ⟨?_, List.forall_mem_cons.mpr ⟨?_,
    List.forall_mem_cons.mpr ⟨?_, nofun⟩⟩⟩⟩⟩
  · exact plane r r' 0 (by simp) (.inl ⟨rfl, hr', rfl⟩) hlr
  · exact plane g g' 1 (by simp) (.inr (.inl ⟨rfl, hg', rfl⟩)) hlg
  · exact plane b b' 2 (by simp) (.inr (.inr (.inl ⟨rfl, hb', rfl⟩))) hlb
  · exact plane a a' 3 (by simp) (.inr (.inr (.inr ⟨rfl, rfl⟩))) hla

/-! ## The operands a command reads (R83, R91, R205) -/

/-- The state with other ARG registers and another command in flight, or none. -/
def State.withLatch (s : State) (a0 a1 a2 : Word) (c : Option InFlight) : State :=
  { s with arg0 := a0, arg1 := a1, arg2 := a2, inFlight := c }

theorem State.withLatch_afterPackedRead (s : State) (a0 a1 a2 : Word) (c : Option InFlight) (a n : Nat) :
    (s.withLatch a0 a1 a2 c).afterPackedRead a n = (s.afterPackedRead a n).withLatch a0 a1 a2 c := by
  unfold State.afterPackedRead
  rw [apply_ite (State.withLatch · a0 a1 a2 c)]
  rfl

/-- The operands that R91 names for the command are the same in both states. -/
structure SameOperands (i : Instr) (s t : State) : Prop where
  operand0 : 1 ≤ argCount i → t.operand0 = s.operand0
  operand1 : 2 ≤ argCount i → t.operand1 = s.operand1
  operand2 : 3 ≤ argCount i → t.operand2 = s.operand2

theorem SameOperands.dims {i : Instr} {s t : State} (h : SameOperands i s t) (hp : t.params = s.params)
    (hn : 2 ≤ argCount i) : checkedDims t.params (signedOperand t.operand0) (signedOperand t.operand1) =
      checkedDims s.params (signedOperand s.operand0) (signedOperand s.operand1) := by
  rw [hp, h.operand0 (by omega), h.operand1 hn]

section

variable {s u : State} {i : Instr} {a0 a1 a2 : Word} {c : Option InFlight}

/-- The checks of a command read of the ARG values those that R91 names. -/
theorem Rejects.withLatch {e : ErrorCode} (h : Rejects s i e) (hs : SameOperands i s (s.withLatch a0 a1 a2 c)) :
    Rejects (s.withLatch a0 a1 a2 c) i e := by
  cases h with
  | createDims d e hd => exact .createDims d e ((hs.dims rfl (Nat.le_refl 2)).trans hd)
  | unpackDims r g b a e hd => exact .unpackDims r g b a e ((hs.dims rfl (Nat.le_refl 2)).trans hd)
  | kload k src hc => exact .kload k src hc
  | diff d a b corrected hd => exact .diff d a b corrected hd
  | scaledown d src hn => exact .scaledown d src (by rw [hs.operand0 (Nat.le_refl 1)]; exact hn)
  | pack r g b a hd => exact .pack r g b a hd

/-- The effect of a command reads of the ARG values those that R91 names, and leaves the ARG registers. -/
theorem Effect.withLatch (h : Effect s i u) (hs : SameOperands i s (s.withLatch a0 a1 a2 c)) :
    Effect (s.withLatch a0 a1 a2 c) i (u.withLatch a0 a1 a2 c) := by
  cases h with
  | nop => exact .nop
  | create d w x hd => exact .create d w x ((hs.dims rfl (Nat.le_refl 2)).trans hd)
  | release d => exact .release d
  | get src =>
    rw [← hs.operand0 (Nat.le_succ 1), ← hs.operand1 (Nat.le_refl 2)]
    exact .get src
  | set d =>
    rw [← hs.operand0 (Nat.le_add_left 1 2), ← hs.operand1 (Nat.le_succ 2), ← hs.operand2 (Nat.le_refl 3)]
    exact .set d
  | fill d =>
    rw [← hs.operand0 (Nat.le_refl 1)]
    exact .fill d
  | kload k src hc => exact .kload k src hc
  | conv d src k degain saturate corrected => exact .conv d src k degain saturate corrected
  | diff d a b corrected hw hh => exact .diff d a b corrected hw hh
  | scaledown d src hn =>
    rw [← hs.operand0 (Nat.le_refl 1)] at hn ⊢
    exact .scaledown d src hn
  | pack r g b a hg hb ha => exact .pack r g b a hg hb ha
  | unpack r g b a w x hd =>
    have hu := Effect.unpack (s := s.withLatch a0 a1 a2 c) r g b a w x ((hs.dims rfl (Nat.le_refl 2)).trans hd)
    rw [State.withLatch_afterPackedRead] at hu
    exact hu

/-- With the same operands a command leaves the same state but for the ARG registers. -/
theorem exec_withLatch {t : State} (h : exec i s = .next t) (hs : SameOperands i s (s.withLatch a0 a1 a2 c)) :
    exec i (s.withLatch a0 a1 a2 c) = .next (t.withArgs a0 a1 a2) := by
  have heff (u : State) (hu : Effect s i u) :
      ∃ v, Effect (s.withLatch a0 a1 a2 c) i v ∧ v = u.withLatch a0 a1 a2 c := ⟨_, hu.withLatch hs, rfl⟩
  have hp : (s.withLatch a0 a1 a2 c).params = s.params := rfl
  rcases exec_related hp (fun e he => he.withLatch hs) heff h with ⟨e, rfl, ht⟩ | ⟨u, v, rfl, rfl, ht⟩ <;> exact ht

end

theorem State.operands_of_inFlight {s : State} {c : InFlight} (h : s.inFlight = some c) :
    s.operand0 = c.arg0 ∧ s.operand1 = c.arg1 ∧ s.operand2 = c.arg2 := by
  simp [State.operand0, State.operand1, State.operand2, h]

theorem State.operands_of_idle {s : State} (h : s.inFlight = none) :
    s.operand0 = s.arg0 ∧ s.operand1 = s.arg1 ∧ s.operand2 = s.arg2 := by
  simp [State.operand0, State.operand1, State.operand2, h]

/-- After a command the ARG registers are as before and no command is in flight. -/
theorem exec_withArgs_self {i : Instr} {s t : State} (h : exec i s = .next t) : t.withArgs s.arg0 s.arg1 s.arg2 = t := by
  obtain ⟨-, -, h0, h1, h2, -⟩ := (exec_frameOf h).interface
  obtain ⟨hi, -⟩ := exec_statusCompleted h
  rw [← h0, ← h1, ← h2, State.withArgs, ← hi]

/-- Settles O45: each clause compares two states that differ in the ARG registers and the command in flight at most. -/
theorem commandsReadOnlyTheirArgs : Obligations.CommandsReadOnlyTheirArgs := by
  refine ⟨fun s c => State.operands_of_inFlight, fun s => State.operands_of_idle, fun i s t c hc h => ?_,
    fun i s t c c' h0 h1 h2 h => ?_, fun i s t a0 a1 a2 b0 b1 b2 h0 h1 h2 h => ?_⟩
  · obtain ⟨ho0, ho1, ho2⟩ := State.operands_of_inFlight hc
    exact exec_withLatch (s := s.withArgs c.arg0 c.arg1 c.arg2) (c := s.inFlight) h
      ⟨fun _ => ho0, fun _ => ho1, fun _ => ho2⟩
  · have hrun := exec_withLatch (a0 := s.arg0) (a1 := s.arg1) (a2 := s.arg2) (c := some c') h
      ⟨fun hn => (h0 hn).symm, fun hn => (h1 hn).symm, fun hn => (h2 hn).symm⟩
    exact hrun.trans (congrArg _ (exec_withArgs_self (s := { s with inFlight := some c }) h))
  · exact exec_withLatch (s := s.withArgs a0 a1 a2) (c := none) h
      ⟨fun hn => (h0 hn).symm, fun hn => (h1 hn).symm, fun hn => (h2 hn).symm⟩

end Sys2Proof.Machine
end

section
/-! PROOFS. 41_convolution.md: the kernel KLOAD makes (R122, R124), CONV pixel by pixel (R125 to R132), and the sums the
spec derives of it (R134 to R136). -/

namespace Sys2Proof.Machine

/-! ## Narrowing and division (R11, R12, R131) -/

theorem clamp_eq_max_min {lo hi : Int} (v : Int) (h : lo ≤ hi) : clamp v lo hi = max lo (min v hi) := by
  unfold clamp; split <;> (try split) <;> omega

theorem wrap16_congr (v : Int) : ((wrap16 v).toInt - v) % 65536 = 0 := by
  have h : (wrap16 v).toInt = v.bmod 65536 := BitVec.toInt_ofInt v
  rw [h, Int.bmod_def]
  omega

theorem narrowed_wrap_congr (v : Int) : ((narrowed false v).toInt - v) % 65536 = 0 := wrap16_congr v

theorem toInt_narrowed_sat (v : Int) : (narrowed true v).toInt = max (-32768) (min v 32767) :=
  (toInt_sat16 v).trans (clamp_eq_max_min v (by decide))

/-- Narrowing a sample's own value gives the sample back, whatever the S bit. -/
theorem narrowed_toInt (saturate : Bool) (v : Sample) : narrowed saturate v.toInt = v := by
  obtain ⟨h₁, h₂⟩ := sample_range v
  cases saturate with
  | false => exact ofInt16_toInt v
  | true => exact (congrArg _ (clamp_eq_self h₁ h₂)).trans (ofInt16_toInt v)

theorem degained_eq (degain : Bool) (ker : Kernel) (sum : Int) :
    degained degain ker sum =
      if degain = true ∧ 0 < ker.gain.toInt then Int.tdiv sum ker.gain.toInt else sum := by
  by_cases h : degain = true ∧ 0 < ker.gain.toInt
  · rw [if_pos h, degained, if_pos h, tdiv_eq_int_tdiv _ h.2]
  · rw [if_neg h, degained, if_neg h]

/-- Degain divides a multiple of the kernel's positive gain back (R131). -/
theorem degained_mul_gain {ker : Kernel} (v : Int) (hg : 0 < ker.gain.toInt) :
    degained true ker (v * ker.gain.toInt) = v := by
  rw [degained_eq, if_pos ⟨rfl, hg⟩, Int.mul_tdiv_cancel _ hg.ne']

/-! ## Reading kernels and buffers (R14, R16) -/

theorem Kernel.natCast_tx (k : Kernel) : (k.tx : Int) = k.width / 2 := Int.natCast_ediv k.width 2

theorem Kernel.natCast_ty (k : Kernel) : (k.ty : Int) = k.height / 2 := Int.natCast_ediv k.height 2

/-- At coordinates that are not negative, KGet of a kernel with all its weights reads the flat index, and past the last
weight the sentinel. -/
theorem Kernel.get_natCast {k : Kernel} (hl : k.weights.length = k.width * k.height) (i j : Nat) :
    k.get i j = k.weights.getD (i + j * k.width) sentinel := by
  rw [Kernel.get, flatIndex_natCast, Int.toNat_natCast]
  split
  next => rfl
  next hg =>
    rw [inGrid_iff] at hg
    have hle : k.weights.length ≤ i + j * k.width := by
      rw [hl]; exact_mod_cast not_lt.mp (not_and.mp hg (Int.natCast_nonneg _))
    exact (List.getD_eq_default _ _ hle).symm

/-- In the grid of a buffer with all its samples, Get reads a stored sample. -/
theorem Buffer.some_get_grid {b : Buffer} (hl : b.samples.length = b.width * b.height) {x y : Nat} (hx : x < b.width)
    (hy : y < b.height) : some (b.get x y) = b.samples[x + y * b.width]? := by
  have hi : x + y * b.width < b.samples.length := hl ▸ index_lt hx hy
  rw [b.get_grid hx hy, List.getD_eq_getElem?_getD, List.getElem?_eq_getElem hi, Option.getD_some]

theorem Buffer.get_eq_at {b : Buffer} (hl : b.samples.length = b.width * b.height) {x y : Nat} (hx : x < b.width)
    (hy : y < b.height) : b.get x y = b.at (x + y * b.width) :=
  (b.get_grid hx hy).trans (b.getD_eq_at (hl ▸ index_lt hx hy) _)

/-! ## Sums over a grid (R125) -/

/-- A sum over rows and columns is the sum over the flat indices. -/
theorem sumRange_grid (w h : Nat) (f : Nat → Int) :
    (sumRange h fun j => sumRange w fun i => f (i + j * w)) = sumRange (h * w) f := by
  induction h with
  | zero => rw [Nat.zero_mul]; rfl
  | succ h ih =>
    rw [sumRange_succ, ih, Nat.succ_mul]
    simp only [sumRange_eq_sum, Finset.sum_range_add, Nat.add_comm _ (h * w)]

/-- The exact sum of a list is the sum over its indices. -/
theorem sumRange_getD (l : List Sample) (v : Sample) : (sumRange l.length fun i => (l.getD i v).toInt) = sampleSum l := by
  unfold sumRange sampleSum
  congr 1
  refine List.ext_getElem (by simp) fun i _ hi => ?_
  rw [List.length_map] at hi
  rw [List.getElem_map, List.getElem_map, List.getElem_range, List.getD_eq_getElem _ _ hi]

/-- The sum of the weights that the literal taps read (R129). -/
def Kernel.tapWeightSum (k : Kernel) : Int :=
  sumRange (2 * k.ty + 1) fun j => sumRange (2 * k.tx + 1) fun i => (k.get i j).toInt

/-- The literal tap sum: the centre sample in every tap (R129). -/
theorem tapSum_literal (src : Buffer) (ker : Kernel) (x y : Int) :
    tapSum src ker false x y = (src.get x y).toInt * ker.tapWeightSum := by
  simp only [tapSum, tapSample, Bool.false_eq_true, if_false, sumRange_mul_left, Kernel.tapWeightSum]

theorem Kernel.tapWeightSum_eq (k : Kernel) :
    k.tapWeightSum = ∑ yy ∈ Finset.Icc (-(k.ty : Int)) k.ty, ∑ xx ∈ Finset.Icc (-(k.tx : Int)) k.tx,
      (k.get (xx + k.tx) (yy + k.ty)).toInt := by
  simp only [sum_Icc_shift, sub_add_cancel]
  rfl

/-- The taps of an odd kernel read each weight once (R136). -/
theorem Kernel.tapWeightSum_odd {k : Kernel} (hl : k.weights.length = k.width * k.height) (hw : k.width % 2 = 1)
    (hh : k.height % 2 = 1) : k.tapWeightSum = sampleSum k.weights := by
  have htx : 2 * k.tx + 1 = k.width := by unfold Kernel.tx; omega
  have hty : 2 * k.ty + 1 = k.height := by unfold Kernel.ty; omega
  rw [Kernel.tapWeightSum, htx, hty]
  simp only [Kernel.get_natCast hl]
  rw [sumRange_grid k.width k.height fun n => (k.weights.getD n sentinel).toInt, Nat.mul_comm, ← hl, sumRange_getD]

/-! ## The output pixel (R128) -/

section

variable {src : Buffer} {ker : Kernel} {x y : Int} (degain saturate corrected : Bool)

theorem convPixel_of_border
    (h : y < ker.ty ∨ y > (src.height : Int) - ker.ty ∨ x < ker.tx ∨ x > (src.width : Int) - ker.tx) :
    convPixel src ker degain saturate corrected x y = 0 := by
  rw [convPixel, if_pos (onBorder_iff.mpr h)]

theorem convPixel_of_interior
    (h : ker.tx ≤ x ∧ x < (src.width : Int) - ker.tx ∧ ker.ty ≤ y ∧ y < (src.height : Int) - ker.ty) :
    convPixel src ker degain saturate corrected x y =
      narrowed saturate (degained degain ker (tapSum src ker corrected x y)) := by
  rw [convPixel, if_neg (mt onBorder_iff.mp (by omega)), if_pos (beforeFarEdge_iff.mpr (by omega))]

/-- From the far edge on every pixel is 0: on the edge it is untouched, beyond it on the border. -/
theorem convPixel_of_far_edge (h : (src.width : Int) - ker.tx ≤ x ∨ (src.height : Int) - ker.ty ≤ y) :
    convPixel src ker degain saturate corrected x y = 0 := by
  rw [convPixel, if_neg (mt beforeFarEdge_iff.mp (by omega)), ite_self]

end

/-! ## What KLOAD and CONV leave -/

theorem kload_wellFormed_iff {p : Params} {k src : Slot} :
    (Instr.kload k src).wellFormed p = true ↔ k.val < p.nker ∧ src.val < p.nbuf := by
  simp [Instr.wellFormed, Params.kernelSlotOk_iff, Params.bufferSlotOk_iff]

theorem conv_wellFormed_iff {p : Params} {d src k : Slot} {degain saturate corrected : Bool} :
    (Instr.conv d src k degain saturate corrected).wellFormed p = true ↔
      d.val < p.nbuf ∧ src.val < p.nbuf ∧ k.val < p.nker := by
  simp [Instr.wellFormed, Params.kernelSlotOk_iff, Params.bufferSlotOk_iff, and_assoc]

/-- CONV succeeds and leaves the convolved buffer in its destination (R125). -/
theorem exec_conv {s : State} {d src k : Slot} (degain saturate corrected : Bool) (hp : s.slotsPresent)
    (hd : d.val < s.params.nbuf) (hsrc : src.val < s.params.nbuf) (hk : k.val < s.params.nker) :
    ∃ t, exec (.conv d src k degain saturate corrected) s = .next t ∧ t.err = .ok ∧ StatusCompleted s t ∧
      t.buf d = convolved (s.buf src) (s.ker k) degain saturate corrected :=
  exec_of_setBuf hp hd (.conv ..) (conv_wellFormed_iff.mpr ⟨hd, hsrc, hk⟩)

/-! ## The obligations -/

/-- Settles O23: the slot takes the kernel of the buffer, whose GAIN is the wrapped sum. -/
theorem kloadCopiesTheBuffer : Obligations.KloadCopiesTheBuffer := by
  rintro s k src ⟨-, hkers⟩ hk hsrc hc
  have he := Effect.kload (s := s) k src hc
  refine ⟨_, exec_of_effect (kload_wellFormed_iff.mpr ⟨hk, hsrc⟩) he, rfl, he.statusCompleted, ?_⟩
  rw [State.ker_complete, State.ker_setKer_self _ (hkers ▸ hk)]
  exact ⟨rfl, rfl, rfl, wrap16_congr _⟩

/-- Settles O25: the three classes of R128, one lemma each, and what degain and narrowing do to the interior. -/
theorem convPixelByPixel : Obligations.ConvPixelByPixel := by
  intro s d src k degain saturate corrected hp hd hsrc hk hpos
  obtain ⟨t, ht, herr, hst, hb⟩ := exec_conv degain saturate corrected hp hd hsrc hk
  refine ⟨t, ht, herr, hst, ?_⟩
  rw [hb]
  refine ⟨convolved_width .., convolved_height .., convolved_gain .., convolved_length .., ?_⟩
  rintro W H tx ty x y sum rfl rfl htx hty hx hxW hy hyH hsum
  rw [← Kernel.natCast_tx] at htx
  rw [← Kernel.natCast_ty] at hty
  subst htx hty
  rw [← tapSum_eq] at hsum
  lift x to Nat using hx
  lift y to Nat using hy
  have hpixel : (convolved (s.buf src) (s.ker k) degain saturate corrected).at
      ((x : Int) + y * (s.buf src).width).toNat = convPixel (s.buf src) (s.ker k) degain saturate corrected x y :=
    convolved_at _ _ _ hpos (by omega) (by omega)
  rw [hpixel]
  refine ⟨convPixel_of_border _ _ _, fun hin q hq => ?_, fun h => convPixel_of_far_edge _ _ _ (by omega)⟩
  rw [convPixel_of_interior _ _ _ hin, degained_eq, ← hsum, ← hq]
  exact ⟨fun h => h ▸ narrowed_wrap_congr q, fun h => h ▸ toInt_narrowed_sat q⟩

/-- Settles O27: the centre sample is a factor of every tap. -/
theorem literalSumIsCentreTimesWeights : Obligations.LiteralSumIsCentreTimesWeights := by
  intro src ker x y tx ty htx hty
  rw [tapSum_literal, Kernel.tapWeightSum_eq, htx, hty, Kernel.natCast_tx, Kernel.natCast_ty]

/-- Settles O28: an interior pixel is at least a half kernel away from each edge, so the tap is a pixel of the grid. -/
theorem correctedTapsStayInTheImage : Obligations.CorrectedTapsStayInTheImage := by
  intro src ker x y xx yy tx ty htx hty hl hx₁ hx₂ hy₁ hy₂ hxx₁ hxx₂ hyy₁ hyy₂
  obtain ⟨a, ha⟩ := Int.eq_ofNat_of_zero_le (show 0 ≤ x + xx by omega)
  obtain ⟨b, hb⟩ := Int.eq_ofNat_of_zero_le (show 0 ≤ y + yy by omega)
  have haw : a < src.width := by omega
  have hbh : b < src.height := by omega
  rw [ha, hb]
  exact ⟨Int.natCast_nonneg a, Int.ofNat_lt.mpr haw, Int.natCast_nonneg b, Int.ofNat_lt.mpr hbh,
    Buffer.some_get_grid hl haw hbh⟩

/-- Settles O29: the taps of an odd kernel read every weight once, and their sum is the gain, which degain divides back. -/
theorem literalDegainedConvKeepsInterior : Obligations.LiteralDegainedConvKeepsInterior := by
  intro s t d src k saturate x y hp hd hsrc hk hl hwf hw hh hlo hhi hx₁ hx₂ hy₁ hy₂ h
  obtain ⟨t', ht', -, -, hb⟩ := exec_conv true saturate false hp hd hsrc hk
  obtain rfl := Host.Outcome.next.inj (h.symm.trans ht')
  obtain ⟨hkl, -, -, -, hgain⟩ := Kernel.wf_iff.mp hwf
  have hg : (s.ker k).gain.toInt = sampleSum (s.ker k).weights := by
    rw [hgain, toInt_wrap16 (by omega) hhi]
  have hker : 0 < (s.ker k).width * (s.ker k).height := Nat.mul_pos (by omega) (by omega)
  have hxw : x < (s.buf src).width := by omega
  have hyh : y < (s.buf src).height := by omega
  have htx := (s.ker k).natCast_tx
  have hty := (s.ker k).natCast_ty
  have hin : (s.ker k).tx ≤ (x : Int) ∧ (x : Int) < (s.buf src).width - (s.ker k).tx ∧ (s.ker k).ty ≤ (y : Int) ∧
      (y : Int) < (s.buf src).height - (s.ker k).ty := by omega
  have hdegained : degained true (s.ker k) (tapSum (s.buf src) (s.ker k) false x y) =
      ((s.buf src).get x y).toInt := by
    rw [tapSum_literal, Kernel.tapWeightSum_odd hkl hw hh, ← hg, degained_mul_gain _ (by omega)]
  rw [hb, convolved_at _ _ _ hker hxw hyh, convPixel_of_interior _ _ _ hin, hdegained, narrowed_toInt,
    Buffer.get_eq_at hl hxw hyh]

/-- Settles O31: every pixel is before the near edge or from the far edge on. -/
theorem noInteriorMeansZeroOutput : Obligations.NoInteriorMeansZeroOutput := by
  rintro src ker degain saturate corrected W H tx ty rfl rfl htx hty hnone v hv
  rw [← Kernel.natCast_tx] at htx
  rw [← Kernel.natCast_ty] at hty
  subst htx hty
  have hpixel (x y : Int) : convPixel src ker degain saturate corrected x y = 0 := by
    by_cases hnear : y < ker.ty ∨ x < ker.tx
    · exact convPixel_of_border _ _ _ (by omega)
    · exact convPixel_of_far_edge _ _ _ (by omega)
  rcases Nat.eq_zero_or_pos (ker.width * ker.height) with hker | hker
  · rw [convolved_empty_kernel src degain saturate corrected hker] at hv
    exact List.eq_of_mem_replicate hv
  · rw [convolved, if_pos hker] at hv
    obtain ⟨i, -, rfl⟩ := List.mem_map.mp hv
    exact hpixel _ _

/-- Settles O24: the capacity check rejects the buffer. -/
theorem kloadRejectsLargeBuffers : Obligations.KloadRejectsLargeBuffers := by
  intro s k src hk hsrc hc
  rw [exec_of_rejects (kload_wellFormed_iff.mpr ⟨hk, hsrc⟩) (.kload k src hc), State.complete]
  simp

/-- Settles O26: without weights no pixel is written, and the output is the new buffer. -/
theorem convWithEmptyKernelIsZero : Obligations.ConvWithEmptyKernelIsZero := by
  intro s d src k degain saturate corrected hp hd hsrc hk hker
  obtain ⟨t, ht, herr, hst, hb⟩ := exec_conv degain saturate corrected hp hd hsrc hk
  exact ⟨t, ht, herr, hst, hb.trans (convolved_empty_kernel _ _ _ _ hker)⟩

/-- Settles O30: the nine taps read the flat indices 0, 1, 2, 2, 3, 4, 4, 5 and 6. -/
theorem evenKernelReadsSentinelTaps : Obligations.EvenKernelReadsSentinelTaps := by
  intro src gain w0 w1 w2 w3 x y
  have hget := Kernel.get_natCast (k := ⟨2, 2, gain, [w0, w1, w2, w3]⟩) rfl
  have hrows : (⟨2, 2, gain, [w0, w1, w2, w3]⟩ : Kernel).tapWeightSum =
      (w0.toInt + w1.toInt + w2.toInt) + (w2.toInt + w3.toInt + -1) + (-1 + -1 + -1) := by
    simp [Kernel.tapWeightSum, Kernel.tx, Kernel.ty, sumRange_succ, sumRange_zero, hget, sentinel]
  rw [tapSum_literal, hrows]
  ring

end Sys2Proof.Machine
end

section
/-! PROOFS. 42_difference.md: the shape check of DIFF, which PACK shares (R146, R165), and DIFF sample by sample (R147 to
R149). -/

namespace Sys2Proof.Machine

/-! ## A command that its checks reject -/

/-- A well-formed command that its checks reject changes only STATUS: BUSY 0, the error's code and ERR_STICKY 1 (R180 to
R182). -/
theorem exec_of_rejects_status {i : Instr} {s : State} {e : ErrorCode} (hw : i.wellFormed s.params = true)
    (h : Rejects s i e) (he : e ≠ .ok) : exec i s = .next { s with inFlight := none, err := e, errSticky := true } := by
  rw [exec_of_rejects hw h, State.complete, decide_eq_true he, Bool.or_true]

/-- A plane whose shape is not red's fails PACK's check, whichever of the three it is (44_channel_pack.md R165). -/
theorem Rejects.pack_of_unequal {s : State} {r g b a p : Slot} (hp : p ∈ [g, b, a])
    (h : (s.buf p).width ≠ (s.buf r).width ∨ (s.buf p).height ≠ (s.buf r).height) :
    Rejects s (.pack r g b a) .dimensionMismatch := by
  have hshape : (s.buf p).sameShape (s.buf r) = false :=
    Bool.eq_false_iff.mpr fun heq => by
      obtain ⟨hw, hh⟩ := Buffer.sameShape_iff.mp heq
      exact h.elim (· hw) (· hh)
  refine .pack r g b a ?_
  simp only [List.mem_cons, List.not_mem_nil, or_false] at hp
  rcases hp with rfl | rfl | rfl <;> simp [hshape]

/-! ## The obligations -/

/-- Settles O32: the slot takes the difference of the buffers; the literal sample is `a`'s, the corrected one the clamped
difference. -/
theorem diffSampleBySample : Obligations.DiffSampleBySample := by
  intro s d a b corrected hp hd ha hb hwidth hheight
  obtain ⟨t, ht, herr, hst, hbuf⟩ := exec_of_setBuf hp hd (.diff d a b corrected hwidth hheight)
    (diff_wellFormed_iff.mpr ⟨hd, ha, hb⟩)
  refine ⟨t, ht, herr, hst, ?_⟩
  rw [hbuf]
  refine ⟨rfl, rfl, rfl, bufferOf_length .., fun i hi => ?_⟩
  rw [difference_at corrected _ hi]
  constructor
  · rintro rfl
    exact diffSample_literal ..
  · rintro rfl
    exact (toInt_diffSample_corrected ..).trans (clamp_eq_max_min _ (by decide))

/-- Settles O33: unequal shapes fail the check of DIFF and that of PACK. -/
theorem unequalShapesAreRejected : Obligations.UnequalShapesAreRejected :=
  ⟨fun _ d a b corrected hw h => exec_of_rejects_status hw (.diff d a b corrected h) (by decide),
    fun _ _ _ _ _ _ hw hp h => exec_of_rejects_status hw (.pack_of_unequal hp h) (by decide)⟩

end Sys2Proof.Machine
end

section
/-! PROOFS. 43_downscale.md: SCALEDOWN pixel by pixel (R153, R155, R156) and the check of its scale (R154). -/

namespace Sys2Proof.Machine

/-! ## The blocks of the source -/

/-- Offset `xx` of block `x` lies in its dimension: the output keeps whole blocks only (R155). -/
theorem block_offset_lt {w n x xx : Nat} (hx : x < w / n) (hxx : xx < n) : x * n + xx < w := by
  have hblock : (x + 1) * n ≤ w := (Nat.le_div_iff_mul_le (by omega)).mp hx
  rw [Nat.succ_mul] at hblock
  omega

/-- A block sum reads stored samples only, so no sentinel enters it (R156). -/
theorem blockSum_eq_sum_at {src : Buffer} {n x y : Nat} (hl : src.samples.length = src.width * src.height)
    (hx : x < src.width / n) (hy : y < src.height / n) :
    blockSum src n x y = ∑ yy ∈ Finset.range n, ∑ xx ∈ Finset.range n,
      (src.at ((x * n + xx) + (y * n + yy) * src.width)).toInt := by
  rw [← sumRange_eq_sum]
  refine sumRange_congr fun yy hyy => ?_
  rw [← sumRange_eq_sum]
  refine sumRange_congr fun xx hxx => ?_
  rw [src.get_eq_at hl (block_offset_lt hx hxx) (block_offset_lt hy hyy)]

/-- The average of samples is in their range, so no narrowing changes the quotient (R156). -/
theorem toInt_downscaled_at {src : Buffer} {n x y : Nat} (hx : x < src.width / n) (hy : y < src.height / n) :
    ((downscaled src n).at (x + y * (src.width / n))).toInt = Int.tdiv (blockSum src n x y) ((n : Int) * n) := by
  have hn : 0 < n := Nat.pos_of_ne_zero fun h0 => by simp [h0] at hx
  have hsquare : (0 : Int) < (n : Int) * n := by positivity
  obtain ⟨hlo, hhi⟩ := blockSum_between (src := src) (n := n) (x := x) (y := y) fun _ _ _ _ => sample_range _
  obtain ⟨hqlo, hqhi⟩ := tdiv_between hsquare hlo hhi
  rw [downscaled_at hx hy, toInt_ofInt16 hqlo hqhi, tdiv_eq_int_tdiv _ hsquare]

/-! ## The slots SCALEDOWN names -/

theorem scaledown_wellFormed_iff {p : Params} {d src : Slot} :
    (Instr.scaledown d src).wellFormed p = true ↔ d.val < p.nbuf ∧ src.val < p.nbuf := by
  simp [Instr.wellFormed, Params.bufferSlotOk_iff]

/-! ## The obligations -/

/-- Settles O35: the slot takes the downscaled buffer, whose quotients are exact and read stored samples alone. -/
theorem scaledownAveragesBlocks : Obligations.ScaledownAveragesBlocks := by
  intro s d src n hp hd hsrc hl hn hscale
  have hone : 1 < signedOperand s.operand0 := by omega
  obtain ⟨t, ht, herr, hst, hbuf⟩ :=
    exec_of_setBuf hp hd (.scaledown d src hone) (scaledown_wellFormed_iff.mpr ⟨hd, hsrc⟩)
  rw [← hscale, Int.toNat_natCast] at hbuf
  refine ⟨t, ht, herr, hst, ?_⟩
  rw [hbuf]
  refine ⟨rfl, rfl, rfl, bufferOf_length .., fun x y hx hy => ?_⟩
  rw [toInt_downscaled_at hx hy, blockSum_eq_sum_at hl hx hy]

/-- Settles O36: the check of the scale rejects the command, and it does not look at the source. -/
theorem scaledownRejectsSmallScales : Obligations.ScaledownRejectsSmallScales := fun _ d src hd hsrc hn =>
  exec_of_rejects_status (scaledown_wellFormed_iff.mpr ⟨hd, hsrc⟩) (.scaledown d src hn) (by decide)

end Sys2Proof.Machine
end

section
/-! PROOFS. 44_channel_pack.md: the dimension checks of CREATE and UNPACK (R167), and the bytes, the count and the shape a
PACK leaves (R163, R164). -/

namespace Sys2Proof.Machine

/-! ## The dimension checks -/

/-- CREATE and UNPACK make the same checks of their dimensions (R167). -/
theorem Rejects.of_checkedDims {s : State} {i : Instr} {e : ErrorCode}
    (hi : (∃ d, i = .create d) ∨ ∃ r g b a, i = .unpack r g b a)
    (h : checkedDims s.params (signedOperand s.operand0) (signedOperand s.operand1) = .error e) : Rejects s i e := by
  rcases hi with ⟨d, rfl⟩ | ⟨r, g, b, a, rfl⟩
  · exact .createDims d e h
  · exact .unpackDims r g b a e h

/-- Settles O17: a negative dimension and, where none is, a product above the capacity fail the checks the two share. -/
theorem badDimensionsAreRejected : Obligations.BadDimensionsAreRejected := fun _ _ hi hw =>
  ⟨fun hn => exec_of_rejects_status hw (.of_checkedDims hi (checkedDims_negative hn)) (by decide),
    fun h₀ h₁ hc => exec_of_rejects_status hw (.of_checkedDims hi (checkedDims_over h₀ h₁ hc)) (by decide)⟩

/-! ## The lanes of PACK -/

/-- The lane value of a sample that is not negative is the sample modulo 256 (R163). -/
theorem toNat_c8_of_nonneg {v : Sample} (h : 0 ≤ v.toInt) : ((c8 v).toNat : Int) = v.toInt % 256 := by
  have hv : v.toInt = v.toNat := BitVec.toInt_eq_toNat_of_msb (BitVec.msb_eq_toInt.trans (decide_eq_false (not_lt.mpr h)))
  rw [c8, if_neg (not_lt.mpr h), BitVec.toNat_setWidth, hv]
  rfl

/-- Planes of red's shape pass PACK's check (R165). -/
theorem Effect.pack_of_shapes {s : State} {r g b a : Slot}
    (h : ∀ p ∈ [r, g, b, a], (s.buf p).width = (s.buf r).width ∧ (s.buf p).height = (s.buf r).height) :
    Effect s (.pack r g b a) (s.setPacked
      (interleaved s.pm (s.buf r) (s.buf g) (s.buf b) (s.buf a) ((s.buf r).width * (s.buf r).height))
      ((s.buf r).width * (s.buf r).height) (s.buf r).width (s.buf r).height) := by
  have shape (p : Slot) (hp : p ∈ [r, g, b, a]) : (s.buf p).sameShape (s.buf r) = true :=
    Buffer.sameShape_iff.mpr (h p hp)
  exact .pack r g b a (shape g (by simp)) (shape b (by simp)) (shape a (by simp))

/-- Settles O37: PACK leaves the interleaved planes in packed memory, whose bytes are the lane values. -/
theorem packInterleavesPlanes : Obligations.PackInterleavesPlanes := by
  refine ⟨fun v => ?_, fun s r g b a hw hshape => ?_⟩
  · split
    next hn => rw [c8_of_negative hn]; rfl
    next hn => exact toNat_c8_of_nonneg (not_lt.mp hn)
  · have heff := Effect.pack_of_shapes hshape
    obtain ⟨hr, hg, hb, ha⟩ := interleaved_read_lanes s.pm (s.buf r) (s.buf g) (s.buf b) (s.buf a)
      ((s.buf r).width * (s.buf r).height)
    exact ⟨_, exec_of_effect hw heff, rfl, heff.statusCompleted, rfl, rfl, rfl,
      fun i hi => ⟨hr i hi, hg i hi, hb i hi, ha i hi⟩⟩

end Sys2Proof.Machine
end

section
/-! PROOFS. 45_control.md: the next state of NOP (R176). -/

namespace Sys2Proof.Machine

/-- A completion without an error keeps ERR_STICKY (10_state.md R45). -/
theorem State.complete_ok (s : State) : s.complete .ok = { s with inFlight := none, err := .ok } := by
  have hsticky : (s.errSticky || decide (ErrorCode.ok ≠ .ok)) = s.errSticky := Bool.or_false _
  rw [State.complete, hsticky]

/-- Settles O15: NOP's effect is the state itself, and the completion leaves ERR 0 and ERR_STICKY as it was. -/
theorem nopOnlyReportsSuccess : Obligations.NopOnlyReportsSuccess := fun s =>
  (exec_of_effect rfl .nop).trans (congrArg _ s.complete_ok)

end Sys2Proof.Machine
end

section
/-! PROOFS. 60_exceptions.md: the completion of every command (R181, R182, R186), what a failing command leaves
unchanged (R180), the causes of each error code (R179, R183), and that a command in flight ends (R186). -/

namespace Sys2Proof.Machine

/-! ## Completion (R180 to R182, R186) -/

/-- Settles O10: the next state of `exec` has the STATUS of a completed command. -/
theorem everyCommandCompletes : Obligations.EveryCommandCompletes := by
  intro i s
  obtain ⟨t, ht⟩ := exec_is_next i s
  obtain ⟨hidle, hsticky⟩ := exec_statusCompleted ht
  exact ⟨t, ht, by rw [State.busy, hidle]; rfl, hsticky⟩

/-- A completion with an error writes STATUS alone and sets ERR_STICKY (R180 to R182). -/
theorem State.complete_of_ne_ok {e : ErrorCode} (s : State) (he : e ≠ .ok) :
    s.complete e = { s with inFlight := none, err := e, errSticky := true } := by
  rw [State.complete, decide_eq_true he, Bool.or_true]

/-- Settles O11: only an error's completion reports a code that is not 0, and it is a completion of the state before. -/
theorem failingCommandChangesOnlyStatus : Obligations.FailingCommandChangesOnlyStatus := by
  intro i s t h he
  obtain ⟨e, rfl⟩ := exec_eq_complete_of_err h he
  exact s.complete_of_ne_ok he

/-! ## The causes of the error codes (R179, R183) -/

/-- The dimension checks raise InvalidDimension for a negative dimension, CapacityExceeded above the capacity (R167). -/
theorem checkedDims_error_cases {p : Params} {w h : Int} {e : ErrorCode} (hd : checkedDims p w h = .error e) :
    (e = .invalidDimension ∧ (w < 0 ∨ h < 0)) ∨ (e = .capacityExceeded ∧ (p.slotWords : Int) < w * h) := by
  unfold checkedDims at hd
  split at hd
  next hn => cases hd; exact .inl ⟨rfl, hn⟩
  next =>
    split at hd
    next hc => cases hd; exact .inr ⟨rfl, hc⟩
    next => cases hd

/-- PACK's check fails where one of the planes has not red's shape (44_channel_pack.md R165). -/
theorem exists_unequal_plane {s : State} {r g b a : Slot}
    (hs : ((s.buf g).sameShape (s.buf r) && (s.buf b).sameShape (s.buf r) && (s.buf a).sameShape (s.buf r)) = false) :
    ∃ p ∈ [g, b, a], (s.buf p).width ≠ (s.buf r).width ∨ (s.buf p).height ≠ (s.buf r).height := by
  by_contra! hall
  have shape (p : Slot) (hp : p ∈ [g, b, a]) : (s.buf p).sameShape (s.buf r) = true :=
    Buffer.sameShape_iff.mpr (hall p hp)
  rw [shape g (by simp), shape b (by simp), shape a (by simp)] at hs
  cases hs

/-- The causes R179 lists for each code that a check of a well-formed command raises. -/
def CauseOf (s : State) (i : Instr) : ErrorCode → Prop
  | .invalidDimension => ((∃ d, i = .create d) ∨ ∃ r g b a, i = .unpack r g b a) ∧
      (signedOperand s.operand0 < 0 ∨ signedOperand s.operand1 < 0)
  | .dimensionMismatch =>
      (∃ d a b v, i = .diff d a b v ∧
        ((s.buf a).width ≠ (s.buf b).width ∨ (s.buf a).height ≠ (s.buf b).height)) ∨
      ∃ r g b a, i = .pack r g b a ∧ ∃ p ∈ [g, b, a],
        (s.buf p).width ≠ (s.buf r).width ∨ (s.buf p).height ≠ (s.buf r).height
  | .invalidArgument => (∃ d src, i = .scaledown d src) ∧ signedOperand s.operand0 ≤ 1
  | .capacityExceeded =>
      (((∃ d, i = .create d) ∨ ∃ r g b a, i = .unpack r g b a) ∧
        (s.params.slotWords : Int) < signedOperand s.operand0 * signedOperand s.operand1) ∨
      ∃ k src, i = .kload k src ∧ s.params.kmaxTaps < (s.buf src).width * (s.buf src).height
  | .illegalCommand => False
  | .ok => False

/-- What the dimension checks that CREATE and UNPACK share raise is raised for its cause. -/
theorem CauseOf.of_checkedDims {s : State} {i : Instr} {e : ErrorCode}
    (hi : (∃ d, i = .create d) ∨ ∃ r g b a, i = .unpack r g b a)
    (hd : checkedDims s.params (signedOperand s.operand0) (signedOperand s.operand1) = .error e) : CauseOf s i e := by
  rcases checkedDims_error_cases hd with ⟨rfl, hn⟩ | ⟨rfl, hc⟩
  · exact ⟨hi, hn⟩
  · exact .inl ⟨hi, hc⟩

/-- A check rejects a command only for the cause of the code it raises. -/
theorem Rejects.causeOf {s : State} {i : Instr} {e : ErrorCode} (h : Rejects s i e) : CauseOf s i e := by
  cases h with
  | createDims d _ hd => exact .of_checkedDims (.inl ⟨d, rfl⟩) hd
  | unpackDims r g b a _ hd => exact .of_checkedDims (.inr ⟨r, g, b, a, rfl⟩) hd
  | kload k src hc => exact .inr ⟨k, src, rfl, hc⟩
  | diff d a b corrected hs => exact .inl ⟨d, a, b, corrected, rfl, hs⟩
  | scaledown d src hn => exact ⟨⟨d, src, rfl⟩, hn⟩
  | pack r g b a hs => exact .inr ⟨r, g, b, a, rfl, exists_unequal_plane hs⟩

/-- A command reports IllegalCommand when it is not well-formed, and otherwise success or an error for its cause. -/
theorem exec_err_cases {i : Instr} {s t : State} (h : exec i s = .next t) :
    (i.wellFormed s.params = false ∧ t.err = .illegalCommand) ∨
      (i.wellFormed s.params = true ∧ (t.err = .ok ∨ CauseOf s i t.err)) := by
  cases hw : i.wellFormed s.params with
  | false =>
    obtain rfl := Host.Outcome.next.inj ((exec_illegal hw).symm.trans h)
    exact .inl ⟨rfl, rfl⟩
  | true =>
    refine .inr ⟨rfl, ?_⟩
    rcases effect_or_rejects i s with ⟨u, hu⟩ | ⟨e, he⟩
    · obtain rfl := Host.Outcome.next.inj ((exec_of_effect hw hu).symm.trans h)
      exact .inl rfl
    · obtain rfl := Host.Outcome.next.inj ((exec_of_rejects hw he).symm.trans h)
      exact .inr he.causeOf

/-- Any code but IllegalCommand and success has been reported for its cause. -/
theorem causeOf_of_exec_err {i : Instr} {s t : State} {e : ErrorCode} (h : exec i s = .next t) (he : t.err = e)
    (hill : e ≠ .illegalCommand) (hok : e ≠ .ok) : CauseOf s i e := by
  subst he
  rcases exec_err_cases h with ⟨-, herr⟩ | ⟨-, herr | hcause⟩
  · exact absurd herr hill
  · exact absurd herr hok
  · exact hcause

/-- IllegalCommand is reported by the commands that are not well-formed and no others (R92, R94). -/
theorem exec_err_illegalCommand_iff {i : Instr} {s t : State} (h : exec i s = .next t) :
    t.err = .illegalCommand ↔ i.wellFormed s.params = false := by
  rcases exec_err_cases h with ⟨hw, herr⟩ | ⟨hw, herr | hcause⟩
  · simp [hw, herr]
  · simp [hw, herr]
  · rw [hw]
    refine ⟨fun herr => ?_, nofun⟩
    rw [herr] at hcause
    exact hcause.elim

/-- Settles O12: a check raises each code for its cause alone, and ill-formedness is the cause of IllegalCommand. -/
theorem errorCodesHaveTheirCauses : Obligations.ErrorCodesHaveTheirCauses := fun _ _ _ h =>
  ⟨fun he => (causeOf_of_exec_err h he nofun nofun).1, fun he => (causeOf_of_exec_err h he nofun nofun).2,
    fun he => causeOf_of_exec_err h he nofun nofun, fun he => causeOf_of_exec_err h he nofun nofun,
    fun he => causeOf_of_exec_err h he nofun nofun, exec_err_illegalCommand_iff h⟩

/-! ## A command in flight ends (R186; log 1) -/

/-- A host move that lands before the command completes, reset or a STATUS read, abandons the command or uses up one of
its slack (20_memory.md R74, 70_reset_and_hazards.md R201; log 1). -/
theorem step_of_hostLands {s : State} {c : InFlight} (hr : s.resetAsserted = false) (hc : s.inFlight = some c)
    (hl : s.hostLands c = true) : 0 < c.slack ∧
      ∃ t, step s = .next t ∧ (t.inFlight = none ∨ t.inFlight = some { c with slack := c.slack - 1 }) := by
  cases hq : s.hostQueue with
  | nil => simp [State.hostLands, hq] at hl
  | cons m rest =>
    obtain ⟨hslack, hm⟩ : 0 < c.slack ∧ m.lands s.params = true := by simpa [State.hostLands, hq] using hl
    have hst : step s = hostMove m (s.takeMove rest) :=
      step_of_lands hq hm fun c' hc' => Option.some.inj (hc.symm.trans hc') ▸ hslack
    refine ⟨hslack, ?_⟩
    cases m with
    | assertReset => exact ⟨_, hst, .inl rfl⟩
    | releaseReset => cases hm
    | access a =>
      obtain ⟨hin, -⟩ := Access.isStatusRead_iff.mp hm
      refine ⟨_, hst.trans ((if_neg (by simp [hr])).trans (if_pos hin)), .inr ?_⟩
      rw [State.access_statusRead (s := s.takeMove rest) hm]
      simp [hc]

/-- A step with a command in flight ends it or uses up one of its slack. -/
theorem step_of_inFlight {s : State} {c : InFlight} (hs : s.Inv) (hc : s.inFlight = some c) :
    ∃ t, step s = .next t ∧ (t.inFlight = none ∨ 0 < c.slack ∧ t.inFlight = some { c with slack := c.slack - 1 }) := by
  cases hl : s.hostLands c with
  | false =>
    obtain ⟨t, ht, hidle, -⟩ := runWord_next c.word s
    exact ⟨t, (step_of_running hc hl).trans ht, .inl hidle⟩
  | true =>
    obtain ⟨hslack, t, ht, hend⟩ := step_of_hostLands (hs.released hc) hc hl
    exact ⟨t, ht, hend.imp_right (⟨hslack, ·⟩)⟩

/-- Settles O13, by strong induction on the slack: each step ends the command, or keeps the invariant and leaves less
slack. -/
theorem commandEndsWithinItsSlack : Obligations.CommandEndsWithinItsSlack := by
  intro s c hs hc
  induction hn : c.slack using Nat.strong_induction_on generalizing s c with
  | _ n ih =>
    obtain ⟨t, ht, hidle | ⟨hslack, hc'⟩⟩ := step_of_inFlight hs hc
    · exact ⟨1, t, by omega, (core_run_next ht).trans (core_run_zero t), hidle⟩
    · obtain ⟨k, u, hk, hu, hidle⟩ := ih (c.slack - 1) (by omega) t _ (stepKeepsInvariant s t hs ht) hc' rfl
      exact ⟨k + 1, u, by omega, (core_run_next ht).trans hu, hidle⟩

end Sys2Proof.Machine
end
